-- ==== Sys2Proof/Word.lean ====
section
/-! DEFINITION. The two word types of the block: the byte of the serial channel (30_encoding.md R72) and the
4-bit event request vector (R71). Every other quantity of the spec is an unsigned integer with a width that is a
parameter (00_scope.md R9), so it is a natural number here, reduced explicitly where the spec reduces it. -/

namespace Sys2Proof

/-- One byte of the serial channel or of `RXBUF` (10_state.md R30). -/
abbrev Byte := BitVec 8

/-- The request vector `{rst, rx_valid, rf_edge, tick_irq}`, `rst` in bit 3 (30_encoding.md R71). -/
abbrev EventVector := BitVec 4

end Sys2Proof
end

