-- ==== Sys2Proof/Config.lean ====
section
/-! DEFINITION. The constants the document fixes (00_scope.md R6), the parameters a model takes as arguments
(R7, R8), and the values the spec leaves open (free constants with no body). -/

namespace Sys2Proof.Config

/-! ### Constants of R6 -/

/-- `N_CLASSES`, the capacity of the pulse class table (R6). -/
abbrev nClasses : Nat := 10
/-- `VERSION` (R6). -/
abbrev version : Nat := 1
/-- `MIN_PW`, in ticks (R6). -/
abbrev minPw : Nat := 8
/-- `MAX_PW`, in ticks (R6). -/
abbrev maxPw : Nat := 1600
/-- `TOL_DIV` (R6). -/
abbrev tolDiv : Nat := 10
/-- `TOL` (R6). -/
abbrev tol : Nat := 2
/-- `OUT_SCALE` (R6). -/
abbrev outScale : Nat := 10
/-- `ACK_GAP_MUL` (R6). -/
abbrev ackGapMul : Nat := 10
/-- `TERM`, the frame terminator `@` (R6). -/
abbrev term : Byte := 0x40
/-- `FSEP`, the field separator `;` (R6). -/
abbrev fsep : Byte := 0x3B
/-- `LSEP`, the list separator `,` (R6). -/
abbrev lsep : Byte := 0x2C
/-- `MSEP`, the separator `:` after a marker letter (R6). -/
abbrev msep : Byte := 0x3A
/-- `HB_BYTE`, the line feed (R6). -/
abbrev hbByte : Byte := 0x0A

/-- Marker letter `c` (30_encoding.md R73). -/
abbrev letterC : Byte := 0x63
/-- Marker letter `p` (R73). -/
abbrev letterP : Byte := 0x70
/-- Marker letter `r` (R73). -/
abbrev letterR : Byte := 0x72
/-- Marker letter `s` (R73). -/
abbrev letterS : Byte := 0x73
/-- First byte of TUNE_ACK, `v` (R78). -/
abbrev letterV : Byte := 0x76

/-! ### Parameters of R7 and R8 -/

/-- `TOL_MODE` (R7): the document's symmetric test, or the original's formula. -/
inductive TolMode where
  | symmetric
  | original
deriving DecidableEq, Repr

/-- The parameters of R7 and R8, "a model takes each as an argument". `T_TICK` is left out: no rule depends on its
value (R7, R103). The record rides in `State.cfg`, and no step changes it (log 1). -/
structure Params where
  /-- `TRAIN_CAP` (R7). -/
  trainCap : Nat
  /-- `TUNABLE` (R7). -/
  tunable : Bool
  /-- `TX_INSERT_MARK` (R7), OPEN. -/
  txInsertMark : Bool
  /-- `DEF_MINLEN` (R7), OPEN. -/
  defMinLen : Nat
  /-- `DEF_MAXLEN` (R7), OPEN. -/
  defMaxLen : Nat
  /-- `DEF_MINGAP` (R7), OPEN. -/
  defMinGap : Nat
  /-- `DEF_MAXGAP` (R7), OPEN. -/
  defMaxGap : Nat
  /-- `HEARTBEAT_TICKS` (R7). -/
  heartbeatTicks : Nat
  /-- `TOL_MODE` (R7). -/
  tolMode : TolMode
  /-- `RPT_CLEAR_ON_ACCEPT` (R7). -/
  rptClearOnAccept : Bool
  /-- `W_TICK` (R8). -/
  wTick : Nat
  /-- `W_HB` (R8). -/
  wHb : Nat
  /-- `W_CFG` (R8). -/
  wCfg : Nat
  /-- `W_PCT` (R8). -/
  wPct : Nat
  /-- `W_REP` (R8). -/
  wRep : Nat
  /-- `RXBUF_CAP` (R8). -/
  rxBufCap : Nat
  /-- `TUNE_GAP_DIV` (R8). -/
  tuneGapDiv : Nat
  /-- `OVERFLOW_CLASS` (R8). -/
  overflowClass : Nat
deriving DecidableEq, Repr

/-- What R7 and R8 require of the parameters: positive capacities and periods, `HEARTBEAT_TICKS < 2^W_HB`,
`W_PCT >= W_TICK`, a divisor of at least 1 (R194), an overflow class that is a digit (R144), and defaults that fit
the tuning registers (R7). -/
abbrev Params.Valid (p : Params) : Prop :=
  0 < p.trainCap ∧ 0 < p.heartbeatTicks ∧ p.heartbeatTicks < 2 ^ p.wHb ∧ p.wTick ≤ p.wPct ∧ 0 < p.rxBufCap ∧
    0 < p.tuneGapDiv ∧ p.overflowClass < nClasses ∧ p.defMinLen < 2 ^ p.wCfg ∧ p.defMaxLen < 2 ^ p.wCfg ∧
    p.defMinGap < 2 ^ p.wCfg ∧ p.defMaxGap < 2 ^ p.wCfg

/-! ### Free values: no body, so nothing can evaluate them -/

/-- `TX_INSERT_MARK` of the machine at power-on: OPEN, no default (R7, D26; log 2). -/
opaque txInsertMark : Bool
/-- `DEF_MINLEN` of the machine at power-on: OPEN, a `W_CFG` = 32 bit value (R7, D24; log 2). -/
opaque defMinLen : BitVec 32
/-- `DEF_MAXLEN` of the machine at power-on: OPEN (R7, D24; log 2). -/
opaque defMaxLen : BitVec 32
/-- `DEF_MINGAP` of the machine at power-on: OPEN (R7, D24; log 2). -/
opaque defMinGap : BitVec 32
/-- `DEF_MAXGAP` of the machine at power-on: OPEN (R7, D24; log 2). -/
opaque defMaxGap : BitVec 32

/-- The order in which the environment serialises simultaneous events (60_exceptions.md R236): a free choice for
every value of the counter `State.choice` (log 7). -/
opaque serialOrder : Nat → Nat

/-- The parameters of the machine at power-on: the spec's own defaults (R7, R8; log 3), and the free values for the
OPEN ones. -/
def powerOnParams : Params where
  trainCap := 256
  tunable := true
  txInsertMark := txInsertMark
  defMinLen := defMinLen.toNat
  defMaxLen := defMaxLen.toNat
  defMinGap := defMinGap.toNat
  defMaxGap := defMaxGap.toNat
  heartbeatTicks := 100000
  tolMode := .symmetric
  rptClearOnAccept := true
  wTick := 16
  wHb := 32
  wCfg := 32
  wPct := 16
  wRep := 8
  rxBufCap := 256
  tuneGapDiv := 1
  overflowClass := 9

end Sys2Proof.Config
end

