-- ==== Sys2Proof/Machine/Text.lean ====
section
/-! DEFINITION. Decimal text and lists of text (00_scope.md R12): `dec`, `digit`, the value of a digit string, and
`split`, used by the decoder, the operand forms and the outbound frames alike. -/

namespace Sys2Proof.Machine

/-- `digit(k)`, the byte `0x30 + k` (R12). -/
def digit (k : Nat) : Byte := BitVec.ofNat 8 (0x30 + k)

/-- A byte in `0x30 .. 0x39` (R12). -/
def isDigit (b : Byte) : Bool := decide (0x30 ≤ b.toNat) && decide (b.toNat ≤ 0x39)

/-- The class a code byte selects, `byte - 0x30` (30_encoding.md R81 (e)). -/
def digitVal (b : Byte) : Nat := b.toNat - 0x30

/-- The digits of `n` before `acc`, least significant produced first; `fuel` bounds the number of digits. -/
def decDigits : Nat → Nat → List Byte → List Byte
  | 0, _, acc => acc
  | fuel + 1, n, acc => if n < 10 then digit n :: acc else decDigits fuel (n / 10) (digit (n % 10) :: acc)

/-- `dec(v)`: the shortest decimal spelling, most significant digit first, `"0"` for zero (R12). -/
def dec (n : Nat) : List Byte := decDigits (n + 1) n []

/-- The natural a digit string spells, leading zeros allowed; `none` for the empty string and for a string that holds
a byte outside `0x30 .. 0x39` (R12, the part of `parse_dec` that needs no width). -/
def decVal? (t : List Byte) : Option Nat :=
  if t.isEmpty || !t.all isDigit then none else some (t.foldl (fun v b => 10 * v + digitVal b) 0)

/-- `split(t, c)`: one piece more than `t` has occurrences of `c`; `split("", c)` is `[""]` (R12). -/
def split (c : Byte) : List Byte → List (List Byte)
  | [] => [[]]
  | b :: bs =>
    match split c bs with
    | [] => [[b]]
    | p :: ps => if b = c then [] :: p :: ps else (b :: p) :: ps

/-- The pieces joined by `c`, with no separator after the last (30_encoding.md R77). -/
def join (c : Byte) : List (List Byte) → List Byte
  | [] => []
  | [p] => p
  | p :: ps => p ++ c :: join c ps

/-- A non-empty digit string with value below `2^w`: what `parse_dec(t, w)` accepts (R12). -/
def decBelow (w : Nat) (t : List Byte) : Bool :=
  match decVal? t with
  | some v => decide (v < 2 ^ w)
  | none => false

end Sys2Proof.Machine
end

