-- ==== Sys2Proof/Syntax.lean ====
section
/-! DEFINITION. The operations of the block: one constructor per row of spec/opcode_table.json, in the table's order
(30_encoding.md R70). Operands are what the row's rule takes as an argument; what a rule reads from a register
(the width of EDGE, the numbers of TUNE_ACK, the width list of CAPTURED) is read by its meaning. -/

namespace Sys2Proof

/-- The operations of R70. -/
inductive Instr where
  /-- RESET, event `rst` (70_reset_and_hazards.md R260). -/
  | reset
  /-- TICK, event `tick_irq` (40_tick_edge_heartbeat.md R100). -/
  | tick
  /-- EDGE, event `rf_edge` (R102). -/
  | edge
  /-- RXBYTE, event `rx_valid` with `rx_data` = `b` (43_protocol_codec.md R171). -/
  | rxbyte (b : Byte)
  /-- TUNE with its operand text: everything after the first `s:` of the body (30_encoding.md R74). -/
  | tune (text : List Byte)
  /-- TRANSMIT with the field texts of `c:`, `p:` and `r:` (R75). -/
  | transmit (code widths rep : List Byte)
  /-- IGNORED, the no-operation frame (R76). -/
  | ignored
  /-- SYM `d`, one digit of a transmit code (R80). -/
  | sym (d : BitVec 4)
  /-- CAPTURED with its code digits; the width list is that of the class table (R77). -/
  | captured (code : List Byte)
  /-- TUNE_ACK; its numbers are those of the tuning registers (R78). -/
  | tuneAck
  /-- HEARTBEAT, the single byte 0x0A (R79). -/
  | heartbeat
deriving DecidableEq, Repr

end Sys2Proof
end

