-- ==== Sys2Proof/WellFormed.lean ====
section
/-! DEFINITION. The operations whose operands keep the grammar of 30_encoding.md: what a well-behaved host sends and
the block emits, and what the spec gives a meaning without a refusal. -/

namespace Sys2Proof

open Sys2Proof.Machine Sys2Proof.Config

/-- The grammar of a TUNE operand text (30_encoding.md R74): at most four fields, each empty or a decimal below
`2^W_CFG`. -/
def tuneTextOk (p : Params) (text : List Byte) : Bool :=
  let fields := split lsep text
  decide (fields.length ≤ 4) && fields.all (fun f => f.isEmpty || decBelow p.wCfg f)

/-- The grammar of the code field (R75, R80): digits only, possibly none. -/
def codeOk (code : List Byte) : Bool := code.all isDigit

/-- The grammar of the width list (R75): one to ten decimals below `2^W_PCT`. -/
def widthsOk (p : Params) (widths : List Byte) : Bool :=
  let pieces := split lsep widths
  decide (pieces.length ≤ nClasses) && pieces.all (decBelow p.wPct)

/-- The grammar of the repeat field (R75): one decimal below `2^W_REP`. -/
def repOk (p : Params) (rep : List Byte) : Bool := decBelow p.wRep rep

/-- An operation whose operands keep their grammar and, for an inbound frame, whose canonical frame fits the receive
buffer, terminator included (R72). -/
def Instr.wellFormed (p : Params) : Instr → Bool
  | .reset => true
  | .tick => true
  | .edge => true
  | .rxbyte _ => true
  | .tune text => tuneTextOk p text && decide (text.length + 3 ≤ p.rxBufCap)
  | .transmit code widths rep =>
    codeOk code && widthsOk p widths && repOk p rep &&
      decide (code.length + widths.length + rep.length + 9 ≤ p.rxBufCap)
  | .ignored => decide (1 ≤ p.rxBufCap)
  | .sym d => decide (d.toNat ≤ 9)
  | .captured code => codeOk code
  | .tuneAck => true
  | .heartbeat => true

end Sys2Proof
end

