-- ==== Sys2Proof/Decode.lean ====
section
/-! DEFINITION. The decoders and encoders of the block's four formats (30_encoding.md): the event request (R71), the
inbound frame (R72 to R76), the transmit symbol (R80) and the outbound frames (R77 to R79, R83); then one decoder and
one encoder over all formats, and the host's view of the opcode table. Every decoder is total and rejects by name. -/

namespace Sys2Proof

open Sys2Proof.Machine Sys2Proof.Config

/-- Why a decoder rejects its input. -/
inductive DecodeError where
  /-- The vector `0000` is no event (R71). -/
  | noEvent
  /-- A vector with more than one bit set is several events, not one (R71). -/
  | severalEvents
  /-- An event given as bytes that are no request vector with the operand its event has (R71). -/
  | badRequest
  /-- A frame that does not end with its only `@` (R72). -/
  | unterminated
  /-- `c:`, `p:` and `r:` are all present and one of them twice, U3 (43_protocol_codec.md R173). -/
  | duplicateMarker
  /-- A byte outside `0x30 .. 0x39` where a symbol is required, U4 (R80). -/
  | notSymbol
  /-- No outbound unit begins so (R83). -/
  | badOutbound
deriving DecidableEq, Repr

/-! ### EVT: the event request vector (R71) -/

/-- The event operation a one-hot request vector selects, with the data byte presented with it (R71). -/
def decodeEvent (v : EventVector) (data : Byte) : Except DecodeError Instr :=
  if v = 0b1000#4 then .ok .reset
  else if v = 0b0100#4 then .ok (.rxbyte data)
  else if v = 0b0010#4 then .ok .edge
  else if v = 0b0001#4 then .ok .tick
  else if v = 0b0000#4 then .error .noEvent
  else .error .severalEvents

/-- An event request as bytes: the vector in the low four bits of the first byte, and for RXBYTE alone `rx_data` as a
second byte (log 13). -/
def decodeRequest : List Byte → Except DecodeError Instr
  | [v] =>
    if v = 0x08 then .ok .reset else if v = 0x02 then .ok .edge else if v = 0x01 then .ok .tick
    else .error .badRequest
  | [v, b] => if v = 0x04 then .ok (.rxbyte b) else .error .badRequest
  | _ => .error .badRequest

/-! ### FRM-IN: inbound frames (R72 to R76, R173) -/

/-- An inbound frame by kind, with its operand texts (R74 to R76). -/
inductive Frame where
  | tune (text : List Byte)
  | transmit (code widths rep : List Byte)
  | ignored
deriving DecidableEq, Repr

/-- The operation an inbound frame selects (R70). -/
def Frame.toInstr : Frame → Instr
  | .tune text => .tune text
  | .transmit code widths rep => .transmit code widths rep
  | .ignored => .ignored

/-- One of the four marker letters (R73). -/
def isMarkerLetter (b : Byte) : Bool := b == letterC || b == letterP || b == letterR || b == letterS

/-- All markers of a body, ascending by position, each with the body bytes after it (R73). -/
def markers : List Byte → List (Byte × List Byte)
  | [] => []
  | b :: rest =>
    match rest with
    | [] => []
    | m :: after => if isMarkerLetter b && m == msep then (b, after) :: markers rest else markers rest

/-- The field text that begins the bytes after a marker: up to the next `;` or the end of the body (R73). -/
def fieldText (after : List Byte) : List Byte := after.takeWhile (fun b => b != fsep)

/-- The field texts of the markers with letter `l`, ascending by position (R73). -/
def fieldTexts (l : Byte) (ms : List (Byte × List Byte)) : List (List Byte) :=
  (ms.filter (fun m => m.1 == l)).map (fun m => fieldText m.2)

/-- EXECUTE_FRAME's selection (43_protocol_codec.md R173): the first `s:` wins, then a missing `c:`, `p:` or `r:`
gives IGNORED, then a duplicate is undefined (U3), then TRANSMIT. -/
def decodeFrame (body : List Byte) : Except DecodeError Frame :=
  let ms := markers body
  match ms.find? (fun m => m.1 == letterS) with
  | some m => .ok (.tune m.2)
  | none =>
    match fieldTexts letterC ms, fieldTexts letterP ms, fieldTexts letterR ms with
    | [], _, _ => .ok .ignored
    | _, [], _ => .ok .ignored
    | _, _, [] => .ok .ignored
    | [c], [p], [r] => .ok (.transmit c p r)
    | _, _, _ => .error .duplicateMarker

/-- What stands before the first `t` and what after it; `none` where there is no `t`. -/
def cutAt (t : Byte) : List Byte → Option (List Byte × List Byte)
  | [] => none
  | b :: bs => if b = t then some ([], bs) else (cutAt t bs).map (fun c => (b :: c.1, c.2))

/-- A whole inbound frame, terminator included (R72). -/
def decodeInbound (bytes : List Byte) : Except DecodeError Frame :=
  match cutAt term bytes with
  | some (body, []) => decodeFrame body
  | _ => .error .unterminated

/-- The canonical spelling of an inbound frame (R74, R75, R76, R84). -/
def Frame.encode : Frame → List Byte
  | .tune text => [letterS, msep] ++ text ++ [term]
  | .transmit code widths rep =>
    [letterC, msep] ++ code ++ [fsep, letterP, msep] ++ widths ++ [fsep, letterR, msep] ++ rep ++ [term]
  | .ignored => [term]

/-! ### SYM: the transmit symbol (R80) -/

/-- The symbol of one code byte: pattern `0011dddd` with `d` in `0 .. 9` (R80). -/
def decodeSym (b : Byte) : Except DecodeError Instr :=
  if isDigit b then .ok (.sym (b.extractLsb' 0 4)) else .error .notSymbol

/-! ### FRM-OUT: outbound frames (R77 to R79, R83) -/

/-- An outbound unit with all its numbers (R77, R78, R79). -/
inductive OutFrame where
  | captured (code : List Byte) (widths : List Nat)
  | tuneAck (minLen maxLen minGap maxGap : Nat)
  | heartbeat
deriving DecidableEq, Repr

/-- The bytes of an outbound unit (R77, R78, R79). The widths and gaps are the numbers as printed, already scaled. -/
def OutFrame.encode : OutFrame → List Byte
  | .captured code widths =>
    [letterC, msep] ++ code ++ [fsep, letterP, msep] ++ join lsep (widths.map dec) ++ [term]
  | .tuneAck minLen maxLen minGap maxGap =>
    [letterV, msep] ++
      join lsep ([minLen, maxLen, minGap, maxGap, version, minPw, maxPw].map dec) ++ [term]
  | .heartbeat => [hbByte]

/-- The numbers of a list of decimal pieces. -/
def decVals? : List (List Byte) → Option (List Nat)
  | [] => some []
  | t :: ts =>
    match decVal? t, decVals? ts with
    | some v, some vs => some (v :: vs)
    | _, _ => none

/-- The body of CAPTURED after its `c:` (R77). -/
def decodeCaptured (body : List Byte) : Except DecodeError OutFrame :=
  match cutAt fsep body with
  | some (code, p :: m :: list) =>
    if code.all isDigit && p == letterP && m == msep then
      match (if list.isEmpty then some [] else decVals? (split lsep list)) with
      | some widths => .ok (.captured code widths)
      | none => .error .badOutbound
    else .error .badOutbound
  | _ => .error .badOutbound

/-- The body of TUNE_ACK after its `v:` (R78): seven numbers, the last three the block's constants. -/
def decodeTuneAck (body : List Byte) : Except DecodeError OutFrame :=
  match decVals? (split lsep body) with
  | some [a, b, c, d, e, f, g] =>
    if e = version ∧ f = minPw ∧ g = maxPw then .ok (.tuneAck a b c d) else .error .badOutbound
  | _ => .error .badOutbound

/-- The first outbound unit of a byte stream and the bytes after it: the first byte tells the kind (R83). -/
def decodeOut : List Byte → Except DecodeError (OutFrame × List Byte)
  | [] => .error .badOutbound
  | b :: bs =>
    if b = hbByte then .ok (.heartbeat, bs)
    else
      match cutAt term (b :: bs) with
      | some (l :: m :: body, rest) =>
        if l = letterC ∧ m = msep then (decodeCaptured body).map (fun o => (o, rest))
        else if l = letterV ∧ m = msep then (decodeTuneAck body).map (fun o => (o, rest))
        else .error .badOutbound
      | _ => .error .badOutbound

/-- A whole outbound stream as its units, in order (R83); `fuel` bounds their number. -/
def decodeOutStream : Nat → List Byte → Except DecodeError (List OutFrame)
  | _, [] => .ok []
  | 0, _ :: _ => .error .badOutbound
  | fuel + 1, bytes =>
    match decodeOut bytes with
    | .error e => .error e
    | .ok (o, rest) => (decodeOutStream fuel rest).map (fun os => o :: os)

/-- The operation that produced an outbound unit (R70); the numbers are read from registers and are no operand. -/
def OutFrame.toInstr : OutFrame → Instr
  | .captured code _ => .captured code
  | .tuneAck _ _ _ _ => .tuneAck
  | .heartbeat => .heartbeat

/-! ### All formats -/

/-- The four formats of R70. -/
inductive Format where
  | evt
  | frmIn
  | sym
  | frmOut
deriving DecidableEq, Repr

/-- The format of an operation (R70). -/
def Instr.format : Instr → Format
  | .reset => .evt
  | .tick => .evt
  | .edge => .evt
  | .rxbyte _ => .evt
  | .tune _ => .frmIn
  | .transmit _ _ _ => .frmIn
  | .ignored => .frmIn
  | .sym _ => .sym
  | .captured _ => .frmOut
  | .tuneAck => .frmOut
  | .heartbeat => .frmOut

/-- The operation some bytes of a format stand for. -/
def decode : Format → List Byte → Except DecodeError Instr
  | .evt, bytes => decodeRequest bytes
  | .frmIn, bytes => (decodeInbound bytes).map Frame.toInstr
  | .sym, [b] => decodeSym b
  | .sym, _ => .error .notSymbol
  | .frmOut, bytes =>
    match decodeOut bytes with
    | .ok (o, []) => .ok o.toInstr
    | .ok (_, _ :: _) => .error .badOutbound
    | .error e => .error e

/-- The bytes of an operation in its format. An outbound frame is spelled as the block spells it when the registers it
prints hold zero and the class table is empty (log 12). -/
def encode : Instr → List Byte
  | .reset => [0x08]
  | .tick => [0x01]
  | .edge => [0x02]
  | .rxbyte b => [0x04, b]
  | .tune text => (Frame.tune text).encode
  | .transmit code widths rep => (Frame.transmit code widths rep).encode
  | .ignored => Frame.ignored.encode
  | .sym d => [digit d.toNat]
  | .captured code => (OutFrame.captured code []).encode
  | .tuneAck => (OutFrame.tuneAck 0 0 0 0).encode
  | .heartbeat => OutFrame.heartbeat.encode

/-! ### The opcode table's numbering (log 13) -/

/-- The first operation in a list of decodings. -/
def firstOk : List (Except DecodeError Instr) → Option Instr
  | [] => none
  | .ok i :: _ => some i
  | .error _ :: rest => firstOk rest

/-- The marker words of a table entry of `n` 16-bit words, the first in the low bits; the marker `s:` is the word
`0x733A`, so a word's high byte is sent first. -/
def markerWords : Nat → Nat → List (Byte × Byte)
  | 0, _ => []
  | n + 1, w => (BitVec.ofNat 8 (w / 256 % 256), BitVec.ofNat 8 (w % 256)) :: markerWords n (w / 65536)

/-- The inbound frame of some markers with zero operands: a number is `0`, a text is empty. -/
def markerFrame : List (Byte × Byte) → List Byte
  | [] => [term]
  | m :: ms =>
    [m.1, m.2] ++ (if m.1 = letterP ∨ m.1 = letterR then [digit 0] else []) ++
      (if ms.isEmpty then [] else [fsep]) ++ markerFrame ms

/-- The outbound frame that a marker begins, with empty or zero operands. -/
def markerOut : List (Byte × Byte) → List Byte
  | [(l, m)] =>
    if l = letterC ∧ m = msep then (OutFrame.captured [] []).encode
    else if l = letterV ∧ m = msep then (OutFrame.tuneAck 0 0 0 0).encode
    else [l, m]
  | _ => []

/-- The operation the decoders read from a table entry of `nbits` bits with value `w`, operand bits above `nbits`
zero: one byte is an event vector, a symbol, the heartbeat or the bare terminator; 16-bit words are the markers of a
frame, outbound where the table says so, else inbound (log 13). -/
def decodeTableWord (nbits w : Nat) : Option Instr :=
  if 0 < nbits ∧ nbits < 16 then
    let b : Byte := BitVec.ofNat 8 w
    firstOk [decode .evt [b], decode .evt [b, 0x00], decode .sym [b], decode .frmOut [b], decode .frmIn [b]]
  else
    let ms := markerWords (nbits / 16) w
    firstOk [decode .frmOut (markerOut ms), decode .frmIn (markerFrame ms)]

end Sys2Proof
end

