-- ==== Sys2Proof/Machine/State.lean ====
section
/-! DEFINITION. The state of PQTX as plain data (10_state.md R20 to R42), the reasons a step can stop, and the state
after power-on (R41, R260). -/

namespace Sys2Proof.Machine

open Sys2Proof.Config

/-- One of the block's arrays (20_memory.md R50): a list of (index, element) pairs in one canonical form, indices
strictly rising, no element equal to what an unlisted index reads as (`Memory.wf`; log 18). -/
abbrev Memory (α : Type) := List (Nat × α)

/-- The storage spaces of R50 that are indexed. -/
inductive Space where
  | train
  | pct
  | rxBuf
deriving DecidableEq, Repr

/-- One segment of the transmit waveform (R34): the level of the pin (`true` is high, 1) and a duration in units of
`T_TICK / 10`. -/
structure Segment where
  level : Bool
  duration : Nat
deriving DecidableEq, Repr

/-- One delivery of the environment (30_encoding.md R71): the request vector and the byte presented with it. -/
structure Request where
  vector : EventVector
  data : Byte
deriving DecidableEq, Repr

/-- The state of the block. -/
structure State where
  /-- `TICK` (R21). -/
  tick : Nat
  /-- `HBCNT` (R22). -/
  hbCnt : Nat
  /-- `TRAIN` (R23). -/
  train : Memory Nat
  /-- `TIDX` (R23). -/
  tIdx : Nat
  /-- `RPT` (R24). -/
  rpt : Nat
  /-- `PCT` (R25). -/
  pct : Memory Nat
  /-- `NCLS` (R26). -/
  nCls : Nat
  /-- `MINLEN` (R27). -/
  minLen : Nat
  /-- `MAXLEN` (R28). -/
  maxLen : Nat
  /-- `MINGAP` (R29). -/
  minGap : Nat
  /-- `MAXGAP` (R31). -/
  maxGap : Nat
  /-- `RXBUF` (R30). -/
  rxBuf : List Host.Cell
  /-- `RXIDX` (R30). -/
  rxIdx : Nat
  /-- `TXPIN` (R32), `true` is high. -/
  txPin : Bool
  /-- `SER_OUT` (R33), oldest first. -/
  serOut : List Byte
  /-- `TX_TRACE` (R34), oldest first. -/
  txTrace : List Segment
  /-- `IE` (R35). -/
  ie : Bool
  /-- The environment's deliveries not yet taken, the next first: the model's own field (log 6). -/
  input : List Request
  /-- The argument of the next free choice `Config.serialOrder`: the model's own field (log 7). -/
  choice : Nat
  /-- The parameters of 00_scope.md R7 and R8, changed by no step: the model's own field (log 1). -/
  cfg : Params
deriving DecidableEq, Repr

/-- Why the machine stops with a fault. The block itself has no trap (60_exceptions.md R230). -/
inductive Fault where
  /-- Raised by RXBYTE when `RXIDX` is not below `RXBUF_CAP`: the index out of range that 00_scope.md R10 calls a
  precondition violation no rule can reach (20_memory.md R53). Safe: the step-boundary invariant excludes it (log 9). -/
  | indexOutOfRange (space : Space) (index : Nat)
deriving DecidableEq, Repr

/-- Why the machine refuses an input: the spec's `refuse(Uk)` (00_scope.md R11), whose effect the document leaves
undefined. All are safe: nothing can be claimed of a run that contains one (log 8). -/
inductive Refusal where
  /-- An operation that has no meaning yet; raised by `exec`'s arm alone. Safe. -/
  | notModelled (mnemonic : String)
  /-- U2, raised by TUNE and TRANSMIT: a number is empty where one is required or holds a byte that is no digit. -/
  | badNumber
  /-- U3, raised by RXBYTE at the terminator: `c:`, `p:`, `r:` all present and one of them twice. -/
  | duplicateMarker
  /-- U4, raised by TRANSMIT and SYM: a code byte that is no digit, a symbol above 9. -/
  | badCodeByte
  /-- U5, raised by TRANSMIT: more than ten widths. -/
  | tooManyWidths
  /-- U6, raised by TUNE and TRANSMIT: a number too large for its register. -/
  | numberTooLarge
  /-- U7, raised by TUNE: more than four fields. -/
  | tooManyFields
deriving DecidableEq, Repr

/-- The three outcomes of a step over this state. -/
abbrev Outcome := Host.Outcome State Fault Refusal

/-- The state right after power-on (R41, R260): counters and indices 0, the tuning registers at their defaults, the
pin low, `IE` set, the observations empty; `TRAIN` and `RXBUF`, which the spec leaves unspecified, read 0 (log 5), and
nothing has been delivered yet (log 6). -/
def State.reset : State where
  tick := 0
  hbCnt := 0
  train := []
  tIdx := 0
  rpt := 0
  pct := []
  nCls := 0
  minLen := powerOnParams.defMinLen
  maxLen := powerOnParams.defMaxLen
  minGap := powerOnParams.defMinGap
  maxGap := powerOnParams.defMaxGap
  rxBuf := []
  rxIdx := 0
  txPin := false
  serOut := []
  txTrace := []
  ie := true
  input := []
  choice := 0
  cfg := powerOnParams

end Sys2Proof.Machine
end

