-- ==== Sys2Proof/Machine/Ops.lean ====
section
/-! DEFINITION. The named operations over the arrays and registers: reading and writing one element (20_memory.md R50
to R56), entering and leaving a handler (60_exceptions.md R238, R239), `emit`, `toggle` and `hold` (00_scope.md R10),
clearing the class table (42_quantizer_encoder.md R149), and taking the next event (R71, R236). -/

namespace Sys2Proof.Machine

open Sys2Proof.Config

/-! ### Arrays -/

/-- `MemRead(A, i, 1)` (R10): an index that is not listed reads as 0, the default of its type (log 5, log 18). -/
def Memory.read {α : Type} [Inhabited α] : Memory α → Nat → α
  | [], _ => default
  | (a, v) :: m, i => if a = i then v else Memory.read m i

/-- The array without what stands at index `i`. -/
def Memory.erase {α : Type} (m : Memory α) (i : Nat) : Memory α := m.filter (fun c => c.1 != i)

/-- An entry put before the first one whose index is not below its own. -/
def Memory.place {α : Type} (i : Nat) (v : α) : Memory α → Memory α
  | [] => [(i, v)]
  | c :: m => if c.1 < i then c :: Memory.place i v m else (i, v) :: c :: m

/-- `MemWrite(A, i, 1, v)` (R10), keeping the canonical form: writing what an unlisted index reads as removes the
entry. -/
def Memory.write {α : Type} [Inhabited α] [DecidableEq α] (m : Memory α) (i : Nat) (v : α) : Memory α :=
  if v = default then Memory.erase m i else Memory.place i v (Memory.erase m i)

/-- The canonical form: indices strictly rising and no entry equal to what an unlisted index reads as. -/
abbrev Memory.wf {α : Type} [Inhabited α] (m : Memory α) : Prop :=
  m.Pairwise (fun x y => x.1 < y.1) ∧ ∀ c ∈ m, c.2 ≠ default

/-- The elements at `0 .. n - 1`, in order. -/
def Memory.slice {α : Type} [Inhabited α] (m : Memory α) (n : Nat) : List α := (List.range n).map (Memory.read m)

/-- `LOAD_TABLE`'s writes: `A[i]`, `A[i + 1]`, ... take the listed values (43_protocol_codec.md R192). -/
def Memory.writeList {α : Type} [Inhabited α] [DecidableEq α] : Memory α → Nat → List α → Memory α
  | m, _, [] => m
  | m, i, v :: vs => Memory.writeList (Memory.write m i v) (i + 1) vs

/-! ### Handlers -/

/-- Entering a handler does exactly one thing to the block's state: `IE <- 0` (R238). -/
def enterHandler (s : State) : State := { s with ie := false }

/-- Leaving a handler does exactly one thing: `IE <- 1` (R239). -/
def leaveHandler (s : State) : State := { s with ie := true }

/-- The rest of a handler after an operation that can be refused: a refusal has no next state (R11). -/
def onNext (o : Outcome) (f : State → State) : Outcome :=
  match o with
  | .next s => .next (f s)
  | .fault e => .fault e
  | .refused r => .refused r

/-! ### Outputs -/

/-- `emit(bs)` (R10): append to `SER_OUT`; it never blocks and never fails (R33). -/
def emit (bs : List Byte) (s : State) : State := { s with serOut := s.serOut ++ bs }

/-- `toggle()` (R10). -/
def toggle (s : State) : State := { s with txPin := !s.txPin }

/-- `hold(n)` (R10): append the segment `(TXPIN, n)` to `TX_TRACE`. -/
def hold (n : Nat) (s : State) : State := { s with txTrace := s.txTrace ++ [⟨s.txPin, n⟩] }

/-- `CLEAR_TABLE` (R149): every `PCT[k] <- 0` and `NCLS <- 0`. -/
def clearTable (s : State) : State := { s with pct := [], nCls := 0 }

/-- The representative widths of the allocated classes, in index order (R26). -/
def allocated (s : State) : List Nat := Memory.slice s.pct s.nCls

/-! ### Taking the next event -/

/-- The one-hot vectors among the bits of a request vector, `rst` aside (R71). -/
def requested (v : EventVector) : List EventVector :=
  [0b0001#4, 0b0010#4, 0b0100#4].filter (fun h => v &&& h != 0b0000#4)

/-- The next delivered event and the state without it. `rst` overrides any simultaneous event, which is then lost;
other simultaneous events are taken one at a time in an order the spec leaves free (R236; log 7). With nothing
delivered, or with the vector `0000`, there is no event (R71; log 15). -/
def takeEvent (s : State) : Option Instr × State :=
  match s.input with
  | [] => (none, s)
  | r :: rest =>
    if r.vector.getLsbD 3 then ((decodeEvent 0b1000#4 r.data).toOption, { s with input := rest })
    else
      match requested r.vector with
      | [] => (none, { s with input := rest })
      | [h] => ((decodeEvent h r.data).toOption, { s with input := rest })
      | hs =>
        let h := hs.getD (serialOrder s.choice % hs.length) 0b0001#4
        ((decodeEvent h r.data).toOption,
          { s with input := ⟨r.vector ^^^ h, r.data⟩ :: rest, choice := s.choice + 1 })

end Sys2Proof.Machine
end

