-- ==== Sys2Proof/Machine/Operands.lean ====
section
/-! DEFINITION. The operand forms of the inbound frames: the decimal fields of TUNE (43_protocol_codec.md R183) and
the code, width list and repeat count of TRANSMIT (R190, R191, R193), with the refusals U2, U4, U5, U6 and U7 that the
spec names for operands outside their grammar. -/

namespace Sys2Proof.Machine

open Sys2Proof.Config

/-- `parse_dec(t, w)` (00_scope.md R12): U2 for what is no non-empty digit string, U6 for a value of `2^w` or more. -/
def parseDec (t : List Byte) (w : Nat) : Except Refusal Nat :=
  match decVal? t with
  | none => .error .badNumber
  | some v => if v < 2 ^ w then .ok v else .error .numberTooLarge

/-- The fields of TUNE parsed in order; an empty field assigns nothing (R183). -/
def parseFields (w : Nat) : List (List Byte) → Except Refusal (List (Option Nat))
  | [] => .ok []
  | f :: fs =>
    if f.isEmpty then (parseFields w fs).map (fun vs => none :: vs)
    else
      match parseDec f w with
      | .error r => .error r
      | .ok v => (parseFields w fs).map (fun vs => some v :: vs)

/-- TUNE's operand text: U7 for more than four fields, and every field parsed before any register is written (R183). -/
def parseTune (p : Params) (text : List Byte) : Except Refusal (List (Option Nat)) :=
  let fields := split lsep text
  if 4 < fields.length then .error .tooManyFields else parseFields p.wCfg fields

/-- CHECK_CODE (R190): the class of every code byte, U4 for a byte outside `0x30 .. 0x39`. -/
def parseCode (code : List Byte) : Except Refusal (List Nat) :=
  if code.all isDigit then .ok (code.map digitVal) else .error .badCodeByte

/-- The pieces of a width list parsed in order (R191). -/
def parseWidthList (w : Nat) : List (List Byte) → Except Refusal (List Nat)
  | [] => .ok []
  | t :: ts =>
    match parseDec t w with
    | .error r => .error r
    | .ok v => (parseWidthList w ts).map (fun vs => v :: vs)

/-- PARSE_WIDTHS (R191): U5 for more than ten pieces. -/
def parseWidths (p : Params) (widths : List Byte) : Except Refusal (List Nat) :=
  let pieces := split lsep widths
  if nClasses < pieces.length then .error .tooManyWidths else parseWidthList p.wPct pieces

/-- The repeat count (R193). -/
def parseRepeat (p : Params) (rep : List Byte) : Except Refusal Nat := parseDec rep p.wRep

end Sys2Proof.Machine
end

