-- ==== Sys2Proof/Machine/Transmit.lean ====
section
/-! DEFINITION. The transmit sequencer and its micro-operation SYM (44_transmit_sequencer.md R210 to R219). -/

namespace Sys2Proof.Machine

open Sys2Proof.Config

/-- One toggle and one hold of a class's interval (R212). -/
def interval (d : Nat) (s : State) : State := hold (Memory.read s.pct d) (toggle s)

/-- SYM(d) (R212): the implicit class-0 interval first where `TX_INSERT_MARK` is true, then the symbol's own. -/
def symbol (d : Nat) (s : State) : State :=
  interval d (if s.cfg.txInsertMark then interval 0 s else s)

/-- One walk of the code's digit string (R211, the inner loop). -/
def replayOnce (code : List Nat) (s : State) : State := code.foldl (fun t d => symbol d t) s

/-- `r` walks of the code, nothing between them (R211, the outer loop). -/
def replayLoop (code : List Nat) : Nat → State → State
  | 0, s => s
  | r + 1, s => replayLoop code r (replayOnce code s)

/-- REPLAY(tc, R) (R211): the loops, the pin forced low (R216), the table cleared (R217). -/
def replay (code : List Nat) (r : Nat) (s : State) : State :=
  clearTable { replayLoop code r s with txPin := false }

/-- LOAD_TABLE(wl) (43_protocol_codec.md R192). -/
def loadTable (widths : List Nat) (s : State) : State :=
  { s with pct := Memory.writeList s.pct 0 widths, nCls := widths.length }

/-- SYM: one code digit; a symbol above 9 is none and is refused (R80, U4; log 16). -/
def execSym (d : BitVec 4) (s : State) : Outcome :=
  if d.toNat < nClasses then .next (symbol d.toNat s) else .refused .badCodeByte

/-- TRANSMIT(tc, tp, tr) (R189): all three operands are checked before the table is loaded or the pin moves. -/
def execTransmit (code widths rep : List Byte) (s : State) : Outcome :=
  match parseCode code with
  | .error e => .refused e
  | .ok ds =>
    match parseWidths s.cfg widths with
    | .error e => .refused e
    | .ok ws =>
      match parseRepeat s.cfg rep with
      | .error e => .refused e
      | .ok r => .next (replay ds r (loadTable ws s))

end Sys2Proof.Machine
end

