-- ==== Sys2Proof/Machine/Codec.lean ====
section
/-! DEFINITION. The protocol codec: RXBYTE, TUNE, TUNE_ACK and IGNORED (43_protocol_codec.md R170 to R194). -/

namespace Sys2Proof.Machine

open Sys2Proof.Config

/-- ASSIGN(i, v) (R184): one tuning field by position; an absent value leaves its register. -/
def assignField (i : Nat) (v : Option Nat) (s : State) : State :=
  match i, v with
  | 0, some v => { s with minLen := v }
  | 1, some v => { s with maxLen := v }
  | 2, some v => { s with minGap := v / s.cfg.tuneGapDiv }
  | 3, some v => { s with maxGap := v / s.cfg.tuneGapDiv }
  | _, _ => s

/-- The assignments of a TUNE frame, from position `i` on (R183, R184). -/
def assignFields : Nat → List (Option Nat) → State → State
  | _, [], s => s
  | i, v :: vs, s => assignFields (i + 1) vs (assignField i v s)

/-- EMIT_TUNE_ACK (R186): the effective values, the gaps times `ACK_GAP_MUL` modulo `2^W_CFG`. -/
def emitTuneAck (s : State) : State :=
  emit
    (OutFrame.tuneAck s.minLen s.maxLen (s.minGap * ackGapMul % 2 ^ s.cfg.wCfg)
      (s.maxGap * ackGapMul % 2 ^ s.cfg.wCfg)).encode s

/-- TUNE_ACK: send the acknowledgment of the present registers (R186). -/
def execTuneAck (s : State) : Outcome := .next (emitTuneAck s)

/-- TUNE(T) (R183); in the fixed variant nothing happens, whatever the text holds (R187). -/
def execTune (text : List Byte) (s : State) : Outcome :=
  if s.cfg.tunable then
    match parseTune s.cfg text with
    | .error e => .refused e
    | .ok vs => .next (emitTuneAck (assignFields 0 vs s))
  else .next s

/-- IGNORED: the frame that does nothing (R188). -/
def execIgnored (s : State) : Outcome := .next s

/-- The operation of a decoded frame (R173's arms). -/
def runFrame (f : Frame) (s : State) : Outcome :=
  match f with
  | .tune text => execTune text s
  | .transmit code widths rep => execTransmit code widths rep s
  | .ignored => execIgnored s

/-- EXECUTE_FRAME(F) (R173); a duplicated marker is undefined (U3; log 8). -/
def executeFrame (body : List Byte) (s : State) : Outcome :=
  match decodeFrame body with
  | .ok f => runFrame f s
  | .error _ => .refused .duplicateMarker

/-- `RXBUF[RXIDX] <- b; RXIDX <- RXIDX + 1` (R171). -/
def storeByte (b : Byte) (s : State) : State :=
  { s with rxBuf := Memory.write s.rxBuf s.rxIdx b, rxIdx := s.rxIdx + 1 }

/-- `RXIDX <- 0` (R171). -/
def clearRx (s : State) : State := { s with rxIdx := 0 }

/-- RXBYTE(b) (R171): store the byte; the terminator runs the frame before it; a full buffer without one is abandoned
(N4). An index that is out of range, which no rule can reach, faults (R10; log 9). -/
def execRxbyte (b : Byte) (s : State) : Outcome :=
  if s.rxIdx < s.cfg.rxBufCap then
    let s1 := storeByte b (enterHandler s)
    if b = term then
      onNext (executeFrame (Memory.slice s1.rxBuf s.rxIdx) s1) (fun t => leaveHandler (clearRx t))
    else if s1.rxIdx = s1.cfg.rxBufCap then .next (leaveHandler (clearRx s1))
    else .next (leaveHandler s1)
  else .fault (.indexOutOfRange .rxBuf s.rxIdx)

end Sys2Proof.Machine
end

