-- ==== Sys2Proof/Machine/Reset.lean ====
section
/-! DEFINITION. RESET (70_reset_and_hazards.md R260). -/

namespace Sys2Proof.Machine

/-- RESET (R260): every register at the value of R41, the tuning registers at the machine's own defaults, the
observations empty. `TRAIN` and `RXBUF`, unspecified by the spec, read 0 as at power-on (log 5). The events the
environment delivers afterwards stay delivered. -/
def execReset (s : State) : Outcome :=
  .next
    { s with
      tick := 0, hbCnt := 0
      train := [], tIdx := 0, rpt := 0
      pct := [], nCls := 0
      minLen := s.cfg.defMinLen, maxLen := s.cfg.defMaxLen
      minGap := s.cfg.defMinGap, maxGap := s.cfg.defMaxGap
      rxBuf := [], rxIdx := 0
      txPin := false
      serOut := [], txTrace := []
      ie := true }

end Sys2Proof.Machine
end

