-- ==== Sys2Proof/Machine/Flags.lean ====
section
/-! DEFINITION. The block has no flags (10_state.md R37): "the outcome of a comparison lives only inside the rule that
makes it". This file holds those comparisons: the noise filter, the terminator test, the length check and the
closeness test. -/

namespace Sys2Proof.Machine

open Sys2Proof.Config

/-- FILTER's condition to keep a width: `MIN_PW < w < MAX_PW`, both strict (41_assembler_gap_filter.md R121). -/
def keeps (w : Nat) : Bool := decide (minPw < w) && decide (w < maxPw)

/-- The terminator test: `w > MINGAP`, strictly (R123). -/
def terminates (w : Nat) (s : State) : Bool := decide (s.minGap < w)

/-- The length check: `MINLEN <= n <= MAXLEN`, both inclusive (R125). -/
def lengthOk (n : Nat) (s : State) : Bool := decide (s.minLen ≤ n) && decide (n ≤ s.maxLen)

/-- The absolute difference of two naturals (00_scope.md R9). -/
def absDiff (a b : Nat) : Nat := if a ≤ b then b - a else a - b

/-- Subtraction modulo `2^w` of two naturals (42_quantizer_encoder.md R142, `ORIGINAL`). -/
def subMod (w a b : Nat) : Nat := (a + (2 ^ w - b % 2 ^ w)) % 2 ^ w

/-- MATCH(c, w): is width `w` close enough to the representative width `c` (R142). -/
def matchWidth (p : Params) (c w : Nat) : Bool :=
  match p.tolMode with
  | .symmetric => decide (absDiff (c / tolDiv) (w / tolDiv) ≤ tol)
  | .original => decide (subMod p.wTick (c / tolDiv) (w / tolDiv) ≤ tol)

end Sys2Proof.Machine
end

