-- ==== Sys2Proof/Machine/Quantizer.lean ====
section
/-! DEFINITION. The quantizer and the outbound frame CAPTURED (42_quantizer_encoder.md R140 to R152). -/

namespace Sys2Proof.Machine

open Sys2Proof.Config

/-- ALLOCATE(w) (R144): the next free class-table slot with `w` as its representative; with a full table
`OVERFLOW_CLASS`, and the table is unchanged. -/
def allocate (w : Nat) (s : State) : Nat × State :=
  if s.nCls < nClasses then (s.nCls, { s with pct := Memory.write s.pct s.nCls w, nCls := s.nCls + 1 })
  else (s.cfg.overflowClass, s)

/-- CLASSIFY(w) (R143): the first allocated entry that matches, in ascending index order, else ALLOCATE. -/
def classify (w : Nat) (s : State) : Nat × State :=
  match (List.range s.nCls).find? (fun x => matchWidth s.cfg (Memory.read s.pct x) w) with
  | some x => (x, s)
  | none => allocate w s

/-- QUANTIZE's walk (R141) over the widths from position `i` on: every width is classified, and the digit of an odd
position is appended to the code (R146). -/
def quantizeWalk : List Nat → Nat → List Byte → State → List Byte × State
  | [], _, code, s => (code, s)
  | w :: ws, i, code, s =>
    let r := classify w s
    quantizeWalk ws (i + 1) (if i % 2 = 1 then code ++ [digit r.1] else code) r.2

/-- EMIT_CAPTURED(code) (R148): the code and every allocated class's width times `OUT_SCALE`. -/
def emitCaptured (code : List Byte) (s : State) : State :=
  emit (OutFrame.captured code ((allocated s).map (fun c => c * outScale))).encode s

/-- QUANTIZE(n) (R141): walk the train, serialise, clear the table. -/
def quantize (n : Nat) (s : State) : State :=
  let r := quantizeWalk (Memory.slice s.train n) 0 [] s
  clearTable (emitCaptured r.1 r.2)

/-- CAPTURED: send the frame of the present class table (R148). -/
def execCaptured (code : List Byte) (s : State) : Outcome := .next (emitCaptured code s)

end Sys2Proof.Machine
end

