-- ==== Sys2Proof/Machine/Assembler.lean ====
section
/-! DEFINITION. The pulse-train assembler and gap filter (41_assembler_gap_filter.md R120 to R128). -/

namespace Sys2Proof.Machine

/-- APPEND(w) (R122): store and count the width, or abandon a full train without storing it (N4). -/
def append (w : Nat) (s : State) : State :=
  if s.tIdx < s.cfg.trainCap then { s with train := Memory.write s.train s.tIdx w, tIdx := s.tIdx + 1 }
  else { s with tIdx := 0 }

/-- TERMINATE (R124): the length check (R125), repeat confirmation (R126), and on every path a cleared index (R127). -/
def terminate (s : State) : State :=
  let n := s.tIdx
  let evaluated :=
    if lengthOk n s then
      if n = s.rpt then
        let q := quantize n s
        if s.cfg.rptClearOnAccept then { q with rpt := 0 } else q
      else { s with rpt := n }
    else s
  { evaluated with tIdx := 0 }

/-- ASSEMBLE(w) (R120): filter (N1), append, then the terminator test. -/
def assemble (w : Nat) (s : State) : State :=
  if keeps w then
    let s1 := append w s
    if terminates w s1 then terminate s1 else s1
  else s

end Sys2Proof.Machine
end

