-- ==== Sys2Proof/Machine/TickEdge.lean ====
section
/-! DEFINITION. The time base: TICK, HEARTBEAT and EDGE (40_tick_edge_heartbeat.md R100 to R104). -/

namespace Sys2Proof.Machine

open Sys2Proof.Config

/-- The heartbeat is sent: the line feed goes out and the count restarts at 0 (R101; log 11). -/
def sendHeartbeat (s : State) : State := { emit OutFrame.heartbeat.encode s with hbCnt := 0 }

/-- HEARTBEAT_STEP, a sub-step of every TICK (R101). -/
def heartbeatStep (s : State) : State :=
  let counted := { s with hbCnt := s.hbCnt + 1 }
  if counted.hbCnt = s.cfg.heartbeatTicks then sendHeartbeat counted else counted

/-- TICK (R100). -/
def execTick (s : State) : Outcome :=
  let s1 := enterHandler s
  .next (leaveHandler (heartbeatStep { s1 with tick := (s1.tick + 1) % 2 ^ s1.cfg.wTick }))

/-- HEARTBEAT: the outbound unit itself (R79, R101; log 11). -/
def execHeartbeat (s : State) : Outcome := .next (sendHeartbeat s)

/-- EDGE (R102): read and clear the tick counter, hand the width to the assembler. -/
def execEdge (s : State) : Outcome :=
  let s1 := enterHandler s
  .next (leaveHandler (assemble s1.tick { s1 with tick := 0 }))

end Sys2Proof.Machine
end

