-- ==== Sys2Proof/Machine/Dispatch.lean ====
section
/-! DEFINITION. The one dispatch from an operation to its meaning. -/

namespace Sys2Proof.Machine

def exec (i : Instr) (s : State) : Host.Outcome State Fault Refusal :=
  match i with
  | .reset => Sys2Proof.Machine.execReset s
  | .tick => Sys2Proof.Machine.execTick s
  | .edge => Sys2Proof.Machine.execEdge s
  | .rxbyte b => Sys2Proof.Machine.execRxbyte b s
  | .tune text => Sys2Proof.Machine.execTune text s
  | .transmit code widths rep => Sys2Proof.Machine.execTransmit code widths rep s
  | .ignored => Sys2Proof.Machine.execIgnored s
  | .sym d => Sys2Proof.Machine.execSym d s
  | .captured code => Sys2Proof.Machine.execCaptured code s
  | .tuneAck => Sys2Proof.Machine.execTuneAck s
  | .heartbeat => Sys2Proof.Machine.execHeartbeat s

end Sys2Proof.Machine
end

