-- ==== Sys2Proof/Machine/Step.lean ====
section
/-! DEFINITION. One step: take the next delivered event and run its handler to completion (00_scope.md R5). -/

namespace Sys2Proof.Machine

open Sys2Proof.Config

/-- One step of the block: the next delivered event, handled whole; with no event nothing changes (R5, R274). -/
def step (s : State) : Host.Outcome State Fault Refusal :=
  match takeEvent s with
  | (none, s') => .next s'
  | (some i, s') => exec i s'

/-- The state with one more event in front of the delivered ones. -/
def State.deliver (s : State) (v : EventVector) (b : Byte) : State := { s with input := ⟨v, b⟩ :: s.input }

/-- The state with a frame body received and its terminator about to be delivered. -/
def State.receive (s : State) (body : List Byte) : State :=
  { s.deliver 0b0100#4 term with rxBuf := Memory.writeList [] 0 body, rxIdx := body.length }

/-- What must stand in the machine so that the very next step runs an operation (log 14): an event is delivered; an
inbound frame stands in the receive buffer before its terminator; a symbol stands in the code of a TRANSMIT frame with
one width and one repeat; TUNE_ACK answers the empty TUNE frame; HEARTBEAT is due at the next TICK; CAPTURED is due at
an EDGE whose width closes a confirmed train of length 1, the train of an empty code. -/
def State.arrange (s : State) : Instr → State
  | .reset => s.deliver 0b1000#4 0
  | .tick => s.deliver 0b0001#4 0
  | .edge => s.deliver 0b0010#4 0
  | .rxbyte b => s.deliver 0b0100#4 b
  | .tune text => s.receive ((Frame.tune text).encode.dropLast)
  | .transmit code widths rep => s.receive ((Frame.transmit code widths rep).encode.dropLast)
  | .ignored => s.receive []
  | .sym d => s.receive ((Frame.transmit [digit d.toNat] [digit 0] [digit 1]).encode.dropLast)
  | .captured _ =>
    { s.deliver 0b0010#4 0 with tick := minPw + 1, tIdx := 0, rpt := 1, minLen := 1, maxLen := 1, minGap := minPw }
  | .tuneAck => s.receive ((Frame.tune []).encode.dropLast)
  | .heartbeat => { s.deliver 0b0001#4 0 with hbCnt := s.cfg.heartbeatTicks - 1 }

/-- `s` with the operation of a table entry about to run: the next step runs it (log 14). A value the decoders reject
leaves the state as it is. -/
def State.withFetchWord (s : State) (nbits w : Nat) : State :=
  match decodeTableWord nbits w with
  | some i => s.arrange i
  | none => s

end Sys2Proof.Machine
end

