-- ==== Sys2Proof/Safety.lean ====
section
/-! DEFINITION. The terms claims use: the step-boundary invariant (10_state.md R40), the outcome of a step as an
option, running a list of operations, and the clear definitions the quantizer and the sequencer are compared with. -/

namespace Sys2Proof.Machine

open Sys2Proof.Config

/-- The next state of an outcome, where there is one. -/
def nextState? : Host.Outcome State Fault Refusal → Option State
  | .next s => some s
  | .fault _ => none
  | .refused _ => none

/-- Operations run one after another, stopping at the first fault or refusal. -/
def execAll : List Instr → State → Host.Outcome State Fault Refusal
  | [], s => .next s
  | i :: is, s =>
    match exec i s with
    | .next t => execAll is t
    | .fault f => .fault f
    | .refused r => .refused r

/-- What holds at every step boundary: R40 (a) to (g), the canonical form of the arrays, registers within their
widths (R9), widths in the train that passed the filter (R140), and parameters as R7 and R8 require them. -/
structure State.Inv (s : State) : Prop where
  cfgValid : s.cfg.Valid
  ieSet : s.ie = true
  pinLow : s.txPin = false
  noClass : s.nCls = 0
  tableClear : ∀ k, Memory.read s.pct k = 0
  tIdxBound : s.tIdx ≤ s.cfg.trainCap
  rxIdxBound : s.rxIdx < s.cfg.rxBufCap
  rxNoTerm : ∀ i, i < s.rxIdx → Memory.read s.rxBuf i ≠ term
  hbBound : s.hbCnt < s.cfg.heartbeatTicks
  rptBound : s.rpt ≤ s.cfg.trainCap
  tickFits : s.tick < 2 ^ s.cfg.wTick
  trainKept : ∀ i, i < s.tIdx → minPw < Memory.read s.train i ∧ Memory.read s.train i < maxPw
  minLenFits : s.minLen < 2 ^ s.cfg.wCfg
  maxLenFits : s.maxLen < 2 ^ s.cfg.wCfg
  minGapFits : s.minGap < 2 ^ s.cfg.wCfg
  maxGapFits : s.maxGap < 2 ^ s.cfg.wCfg
  trainWf : Memory.wf s.train
  pctWf : Memory.wf s.pct
  rxBufWf : Memory.wf s.rxBuf

/-- Two states that differ at most in elements no rule reads: `TRAIN` at or beyond `TIDX` (R23) and `RXBUF` at or
beyond `RXIDX` (R30). -/
structure State.AgreeWhereRead (s u : State) : Prop where
  rest : { u with train := s.train, rxBuf := s.rxBuf } = s
  train : ∀ i, i < s.tIdx → Memory.read s.train i = Memory.read u.train i
  rxBuf : ∀ i, i < s.rxIdx → Memory.read s.rxBuf i = Memory.read u.rxBuf i

/-- A marker of a body (30_encoding.md R73): letter `l` at position `q`, directly followed by `:`. -/
abbrev MarkerAt (body : List Byte) (l : Byte) (q : Nat) : Prop := body[q]? = some l ∧ body[q + 1]? = some msep

/-- The field text of the marker at position `q` (R73): up to the next `;` or the end of the body. -/
def fieldAt (body : List Byte) (q : Nat) : List Byte := (body.drop (q + 2)).takeWhile (fun b => b != fsep)

/-- The value a TUNE frame assigns by position: the decimal of field `i` of its text, if that field is there and not
empty (43_protocol_codec.md R184). -/
def tuneValue (text : List Byte) (i : Nat) : Option Nat := ((split lsep text)[i]?).bind decVal?

/-- The length of the train that a kept width closes: the width is appended first, or abandons a full train (R122). -/
def closedLength (s : State) : Nat := if s.tIdx < s.cfg.trainCap then s.tIdx + 1 else 0

/-- The widths of that train. -/
def closedTrain (s : State) : List Nat :=
  if s.tIdx < s.cfg.trainCap then Memory.slice s.train s.tIdx ++ [s.tick] else []

/-- The array after that width was appended, element by element: nothing is stored where a full train is abandoned. -/
def AppendedTrain (s t : State) : Prop :=
  ∀ i, Memory.read t.train i = if i = s.tIdx ∧ s.tIdx < s.cfg.trainCap then s.tick else Memory.read s.train i

/-! ### The quantizer, said in two passes -/

/-- The representatives a list of widths leaves behind: a width joins the list where no earlier representative matches
it and fewer than ten stand there (R143, R144). -/
def representatives (p : Params) (ws : List Nat) : List Nat :=
  ws.foldl (fun reps w => if reps.any (fun c => matchWidth p c w) || decide (nClasses ≤ reps.length) then reps
    else reps ++ [w]) []

/-- The class of a width in a finished table: the first representative that matches, else `OVERFLOW_CLASS`. -/
def classIn (p : Params) (reps : List Nat) (w : Nat) : Nat :=
  (reps.findIdx? (fun c => matchWidth p c w)).getD p.overflowClass

/-- The elements at positions 1, 3, 5, ... (R146). -/
def oddPositions {α : Type} : List α → List α
  | _ :: b :: rest => b :: oddPositions rest
  | _ => []

/-- The code digits of a train, by its finished table. -/
def trainCode (p : Params) (ws : List Nat) : List Byte :=
  (oddPositions ws).map (fun w => digit (classIn p (representatives p ws) w))

/-- The CAPTURED frame of a train. -/
def trainFrame (p : Params) (ws : List Nat) : OutFrame :=
  .captured (trainCode p ws) ((representatives p ws).map (fun c => c * outScale))

/-! ### The waveform of a replay -/

/-- The durations one walk of a code holds, by a table of widths; a class with no width holds for 0 (R212). -/
def codeDurations (insertMark : Bool) (widths : List Nat) (code : List Nat) : List Nat :=
  code.flatMap (fun d => if insertMark then [widths.getD 0 0, widths.getD d 0] else [widths.getD d 0])

/-- Durations as segments that start high and alternate (R212). -/
def alternating : Bool → List Nat → List Segment
  | _, [] => []
  | l, d :: ds => ⟨l, d⟩ :: alternating (!l) ds

/-- The waveform of a whole replay from a low pin (R211). -/
def replayWaveform (insertMark : Bool) (widths code : List Nat) (r : Nat) : List Segment :=
  alternating true (List.replicate r (codeDurations insertMark widths code)).flatten

end Sys2Proof.Machine
end

