-- ==== Sys2Proof/Certificates/Slice0/Obligations.lean ====
section
/-! DEFINITION. The statements for the provers, each from the numbered rules of spec/ named in OBLIGATIONS.json. -/

open Sys2Proof Sys2Proof.Machine Sys2Proof.Config

/-! ### Reset -/

/-- R260, R41: RESET leaves every register at its reset value, the tuning registers at the machine's defaults and the
observations empty. `TRAIN[i]` and `RXBUF[i]`, which R41 leaves unspecified, are not spoken of. -/
def Obligations.ResetSetsEveryRegister : Prop :=
  ∀ s : State, ∃ t : State, exec .reset s = .next t ∧
    t.tick = 0 ∧ t.hbCnt = 0 ∧ t.tIdx = 0 ∧ t.rpt = 0 ∧ (∀ k, Memory.read t.pct k = 0) ∧ t.nCls = 0 ∧
    t.minLen = s.cfg.defMinLen ∧ t.maxLen = s.cfg.defMaxLen ∧ t.minGap = s.cfg.defMinGap ∧
    t.maxGap = s.cfg.defMaxGap ∧ t.rxIdx = 0 ∧ t.txPin = false ∧ t.serOut = [] ∧ t.txTrace = [] ∧ t.ie = true ∧
    t.cfg = s.cfg

/-- R40 read at power-on (the spec derives R40): the state after power-on meets the step-boundary invariant. -/
def Obligations.PowerOnStateMeetsInv : Prop := State.reset.Inv

/-! ### TICK and HEARTBEAT -/

/-- R100, R101: one TICK, whole. -/
def Obligations.TickCountsOneTick : Prop :=
  ∀ s : State, exec .tick s = .next
    { s with
      tick := (s.tick + 1) % 2 ^ s.cfg.wTick
      hbCnt := if s.hbCnt + 1 = s.cfg.heartbeatTicks then 0 else s.hbCnt + 1
      serOut := if s.hbCnt + 1 = s.cfg.heartbeatTicks then s.serOut ++ [0x0A] else s.serOut
      ie := true }

/-- R101: the count goes up with every TICK, the byte goes out with the `HEARTBEAT_TICKS`-th, and no other event but
RESET touches the count. -/
def Obligations.HeartbeatIsIndependent : Prop :=
  (∀ s : State, ∃ t : State, exec .tick s = .next t ∧
    (s.hbCnt + 1 = s.cfg.heartbeatTicks → t.hbCnt = 0 ∧ t.serOut = s.serOut ++ [0x0A]) ∧
    (s.hbCnt + 1 ≠ s.cfg.heartbeatTicks → t.hbCnt = s.hbCnt + 1 ∧ t.serOut = s.serOut)) ∧
  ∀ s t : State, step s = .next t → (takeEvent s).1 ≠ some .tick → (takeEvent s).1 ≠ some .reset → t.hbCnt = s.hbCnt

/-- R21, R22, R101 over time: after `n` TICKs, `TICK` has counted `n` modulo `2^W_TICK` and one line feed has gone out
for every full heartbeat period. -/
def Obligations.TicksAccumulateAndBeat : Prop :=
  ∀ (n : Nat) (s : State), s.ie = true → s.tick < 2 ^ s.cfg.wTick → s.hbCnt < s.cfg.heartbeatTicks →
    execAll (List.replicate n .tick) s = .next
      { s with
        tick := (s.tick + n) % 2 ^ s.cfg.wTick
        hbCnt := (s.hbCnt + n) % s.cfg.heartbeatTicks
        serOut := s.serOut ++ List.replicate ((s.hbCnt + n) / s.cfg.heartbeatTicks) 0x0A }

/-- R79 and the emitting branch of R101; that HEARTBEAT taken alone also restarts the count is the model's reading of
that branch (log 11). -/
def Obligations.HeartbeatSendsLineFeed : Prop :=
  ∀ s : State, exec .heartbeat s = .next { s with serOut := s.serOut ++ [0x0A], hbCnt := 0 }

/-! ### EDGE and the assembler -/

/-- R121 (the strict bounds are the spec's decision D7): a width outside `9 .. 1599` is dropped and only `TICK` is
cleared; a width inside them extends the train, where it ends none and the train is not full. -/
def Obligations.EdgeFiltersNoise : Prop :=
  ∀ s : State,
    (¬ (9 ≤ s.tick ∧ s.tick ≤ 1599) → exec .edge s = .next { s with tick := 0, ie := true }) ∧
    (9 ≤ s.tick ∧ s.tick ≤ 1599 → s.tick ≤ s.minGap → s.tIdx < s.cfg.trainCap →
      ∃ t : State, exec .edge s = .next t ∧ Memory.read t.train s.tIdx = s.tick ∧ t.tIdx = s.tIdx + 1)

/-- R102, R120 to R127: the whole EDGE. Noise clears `TICK` alone. A kept width is appended, or abandons a full train
(D6). A width of at most `MINGAP` does no more. A greater one ends the train: outside `[MINLEN, MAXLEN]` the train is
dropped; of another length than `RPT` it is dropped and its length becomes `RPT`; of the same length it is sent as the
CAPTURED frame of its widths, and `RPT` is cleared where `RPT_CLEAR_ON_ACCEPT` is true. The class table is empty before
(as at every step boundary, R40 (c)) and after. -/
def Obligations.EdgeRunsTheAssembler : Prop :=
  ∀ s : State, s.nCls = 0 → (∀ k, Memory.read s.pct k = 0) →
    ∃ t : State, exec .edge s = .next t ∧ (∀ k, Memory.read t.pct k = 0) ∧
      if s.tick ≤ 8 ∨ 1600 ≤ s.tick then t = { s with tick := 0, ie := true }
      else AppendedTrain s t ∧
        if s.tick ≤ s.minGap then
          t = { s with tick := 0, train := t.train, tIdx := closedLength s, ie := true }
        else if closedLength s < s.minLen ∨ s.maxLen < closedLength s then
          t = { s with tick := 0, train := t.train, tIdx := 0, ie := true }
        else if closedLength s ≠ s.rpt then
          t = { s with tick := 0, train := t.train, tIdx := 0, rpt := closedLength s, ie := true }
        else
          t = { s with
                tick := 0, train := t.train, tIdx := 0, pct := t.pct
                rpt := if s.cfg.rptClearOnAccept then 0 else s.rpt
                serOut := s.serOut ++ (trainFrame s.cfg (closedTrain s)).encode
                ie := true }

/-- R126's property: EDGE sends bytes only where a kept terminator closes a train of legal length equal to that of the
candidate before it. -/
def Obligations.OnlyConfirmedTrainsAreSent : Prop :=
  ∀ s t : State, exec .edge s = .next t → t.serOut ≠ s.serOut →
    8 < s.tick ∧ s.tick < 1600 ∧ s.minGap < s.tick ∧ s.minLen ≤ closedLength s ∧ closedLength s ≤ s.maxLen ∧
      closedLength s = s.rpt

/-- R102: EDGE completes from every state, clears `TICK` whatever becomes of the width, and leaves the heartbeat, the
tuning registers, the receive buffer, the pin and the waveform alone. -/
def Obligations.EdgeCompletesAndClearsTick : Prop :=
  ∀ s : State, ∃ t : State, exec .edge s = .next t ∧ t.tick = 0 ∧ t.ie = true ∧
    t = { s with
          tick := 0, train := t.train, tIdx := t.tIdx, rpt := t.rpt, pct := t.pct, nCls := t.nCls
          serOut := t.serOut, ie := true }

/-! ### The quantizer -/

/-- R141, R143, R144, R146, R148, R149: the one-pass walk over the train equals the two-pass description: the
representatives are collected first, then every odd position is given the first representative that matches it. -/
def Obligations.QuantizeEqualsTwoPasses : Prop :=
  ∀ (n : Nat) (s : State), s.nCls = 0 →
    quantize n s =
      { s with
        pct := [], nCls := 0
        serOut := s.serOut ++ (trainFrame s.cfg (Memory.slice s.train n)).encode }

/-- R144's derived remark: in `SYMMETRIC` mode any two classes have quotients by 10 more than 2 apart, and there are
at most ten. -/
def Obligations.SymmetricClassesAreApart : Prop :=
  ∀ (p : Params) (ws : List Nat), p.tolMode = .symmetric →
    (representatives p ws).length ≤ 10 ∧
    ∀ (i j : Nat) (hi : i < j) (hj : j < (representatives p ws).length),
      (representatives p ws)[i] / 10 + 2 < (representatives p ws)[j] / 10 ∨
      (representatives p ws)[j] / 10 + 2 < (representatives p ws)[i] / 10

/-- R144, R146: the first width of a train is class 0, and the code has one digit for every second position. -/
def Obligations.FirstWidthIsClassZero : Prop :=
  ∀ (p : Params) (w : Nat) (ws : List Nat),
    (representatives p (w :: ws)).head? = some w ∧ classIn p (representatives p (w :: ws)) w = 0 ∧
    (trainCode p (w :: ws)).length = (w :: ws).length / 2

/-- R142 in both modes: the two widths are divided by 10, and the quotients differ by at most 2, or in `ORIGINAL` mode
their difference modulo `2^W_TICK` is at most 2; and what the symmetric test says of the widths themselves. -/
def Obligations.MatchComparesTheTens : Prop :=
  ∀ (p : Params) (c w : Nat),
    (p.tolMode = .symmetric →
      (matchWidth p c w = true ↔ c / 10 ≤ w / 10 + 2 ∧ w / 10 ≤ c / 10 + 2) ∧
      (c ≤ w + 20 ∧ w ≤ c + 20 → matchWidth p c w = true) ∧
      (c + 30 ≤ w ∨ w + 30 ≤ c → matchWidth p c w = false)) ∧
    (p.tolMode = .original →
      (matchWidth p c w = true ↔ (((c / 10 : Nat) : Int) - ((w / 10 : Nat) : Int)) % 2 ^ p.wTick ≤ 2))

/-- R142, `ORIGINAL` (the range of the quotients is the spec's inference from R140): a sample matches only a class
whose tens bracket is not below its own. -/
def Obligations.OriginalMatchIsOneSided : Prop :=
  ∀ (p : Params) (c w : Nat), p.tolMode = .original → 8 ≤ p.wTick → c < 1600 → w < 1600 →
    (matchWidth p c w = true ↔ w / 10 ≤ c / 10 ∧ c / 10 ≤ w / 10 + 2)

/-- R148, R77: CAPTURED sends the code it is given and every allocated class's width times 10, in index order. -/
def Obligations.CapturedListsTheTable : Prop :=
  ∀ (code : List Byte) (s : State), exec (.captured code) s = .next
    { s with serOut := s.serOut ++ ([0x63, 0x3A] ++ code ++ [0x3B, 0x70, 0x3A] ++
        join 0x2C ((List.range s.nCls).map (fun k => dec (Memory.read s.pct k * 10))) ++ [0x40]) }

/-! ### RXBYTE and the selection of a frame -/

/-- R171: the byte is stored at `RXIDX`. A byte that is no terminator advances the index, or returns it to 0 where the
buffer is full (N4). The terminator runs the operation that the body selects (R173), on the state in which the
terminator is stored and `IE` is 0, and then clears `RXIDX` and sets `IE`; a body with a duplicated marker is refused
(U3). -/
def Obligations.RxbyteHandlesEveryByte : Prop :=
  ∀ (b : Byte) (s : State), s.rxIdx < s.cfg.rxBufCap →
    ∃ m, (∀ i, Memory.read m i = if i = s.rxIdx then b else Memory.read s.rxBuf i) ∧
      (b ≠ 0x40 → exec (.rxbyte b) s = .next
        { s with
          rxBuf := m, ie := true
          rxIdx := if s.rxIdx + 1 = s.cfg.rxBufCap then 0 else s.rxIdx + 1 }) ∧
      (b = 0x40 →
        (∀ f, decodeFrame (Memory.slice s.rxBuf s.rxIdx) = .ok f →
          exec (.rxbyte b) s =
            match exec f.toInstr { s with ie := false, rxBuf := m, rxIdx := s.rxIdx + 1 } with
            | .next t => .next { t with rxIdx := 0, ie := true }
            | .fault e => .fault e
            | .refused r => .refused r) ∧
        (∀ e, decodeFrame (Memory.slice s.rxBuf s.rxIdx) = .error e →
          exec (.rxbyte b) s = .refused .duplicateMarker))

/-- R171's list of what RXBYTE never writes, and that of `RXBUF` it writes only the element at `RXIDX`. -/
def Obligations.RxbyteLeavesReceptionAlone : Prop :=
  ∀ (b : Byte) (s t : State), exec (.rxbyte b) s = .next t →
    (∀ i, i ≠ s.rxIdx → Memory.read t.rxBuf i = Memory.read s.rxBuf i) ∧ Memory.read t.rxBuf s.rxIdx = b ∧
    t.tick = s.tick ∧ t.hbCnt = s.hbCnt ∧ t.train = s.train ∧ t.tIdx = s.tIdx ∧ t.rpt = s.rpt ∧ t.ie = true ∧
    t.cfg = s.cfg ∧ t.input = s.input ∧ t.choice = s.choice

/-- R173, R76, with the markers and field texts of R73: the first `s:` of a body selects TUNE with everything after it;
with no `s:`, a missing `c:`, `p:` or `r:` gives IGNORED; then one of them twice is undefined (U3); then TRANSMIT with
the three field texts. -/
def Obligations.FrameSelectionFollowsTheMarkers : Prop :=
  ∀ body : List Byte,
    (∀ q, MarkerAt body 0x73 q → (∀ i, i < q → ¬ MarkerAt body 0x73 i) →
      decodeFrame body = .ok (.tune (body.drop (q + 2)))) ∧
    ((∀ q, ¬ MarkerAt body 0x73 q) →
      (∀ l, l = 0x63 ∨ l = 0x70 ∨ l = 0x72 → (∀ q, ¬ MarkerAt body l q) → decodeFrame body = .ok .ignored) ∧
      ((∃ q, MarkerAt body 0x63 q) → (∃ q, MarkerAt body 0x70 q) → (∃ q, MarkerAt body 0x72 q) →
        ∀ l q i, l = 0x63 ∨ l = 0x70 ∨ l = 0x72 → MarkerAt body l q → MarkerAt body l i → q < i →
          decodeFrame body = .error .duplicateMarker) ∧
      ∀ c p r, (∀ q, MarkerAt body 0x63 q ↔ q = c) → (∀ q, MarkerAt body 0x70 q ↔ q = p) →
        (∀ q, MarkerAt body 0x72 q ↔ q = r) →
        decodeFrame body = .ok (.transmit (fieldAt body c) (fieldAt body p) (fieldAt body r)))

/-- R75: the three fields of a TRANSMIT frame can come in any order. -/
def Obligations.TransmitFieldsInAnyOrder : Prop :=
  ∀ (c p r : List Byte) (fields : List (Byte × List Byte)),
    (∀ t ∈ [c, p, r], ∀ b ∈ t, b ≠ 0x3A ∧ b ≠ 0x3B) →
    fields.Perm [(0x63, c), (0x70, p), (0x72, r)] →
    decodeFrame (join 0x3B (fields.map (fun f => f.1 :: 0x3A :: f.2))) = .ok (.transmit c p r)

/-- R171, R173, R183, R189: the bytes of a well-formed inbound frame, received one by one from an empty buffer, run
exactly the frame's operation. -/
def Obligations.WholeFrameRunsItsOperation : Prop :=
  ∀ (i : Instr) (s : State), i.format = .frmIn → i.wellFormed s.cfg = true → s.rxIdx = 0 →
    ∃ t m, exec i s = .next t ∧
      execAll ((encode i).map Instr.rxbyte) s = .next { t with rxBuf := m, rxIdx := 0, ie := true }

/-! ### TUNE, TUNE_ACK and IGNORED -/

/-- R183, R184, R186: each field that is not empty assigns its register by position, gaps divided by `TUNE_GAP_DIV`,
and the acknowledgment shows the effective values, gaps times 10 modulo `2^W_CFG`. -/
def Obligations.TuneAssignsByPosition : Prop :=
  ∀ (text : List Byte) (s : State), s.cfg.tunable = true → (split 0x2C text).length ≤ 4 →
    (∀ f ∈ split 0x2C text, f = [] ∨ ∃ v, decVal? f = some v ∧ v < 2 ^ s.cfg.wCfg) →
    ∀ a b c d : Nat, a = (tuneValue text 0).getD s.minLen → b = (tuneValue text 1).getD s.maxLen →
      c = ((tuneValue text 2).map (fun v => v / s.cfg.tuneGapDiv)).getD s.minGap →
      d = ((tuneValue text 3).map (fun v => v / s.cfg.tuneGapDiv)).getD s.maxGap →
      exec (.tune text) s = .next
        { s with
          minLen := a, maxLen := b, minGap := c, maxGap := d
          serOut := s.serOut ++ ([0x76, 0x3A] ++ join 0x2C [dec a, dec b, dec (c * 10 % 2 ^ s.cfg.wCfg),
            dec (d * 10 % 2 ^ s.cfg.wCfg), [0x31], [0x38], [0x31, 0x36, 0x30, 0x30]] ++ [0x40]) }

/-- R183, U7, U2, U6: more than four fields are refused; otherwise the first field outside its grammar decides the
refusal. -/
def Obligations.TuneRefusesBadText : Prop :=
  ∀ (text : List Byte) (s : State), s.cfg.tunable = true →
    (4 < (split 0x2C text).length → exec (.tune text) s = .refused .tooManyFields) ∧
    ∀ (good rest : List (List Byte)) (f : List Byte), split 0x2C text = good ++ f :: rest →
      (split 0x2C text).length ≤ 4 → f ≠ [] →
      (∀ g ∈ good, g = [] ∨ ∃ v, decVal? g = some v ∧ v < 2 ^ s.cfg.wCfg) →
      (decVal? f = none → exec (.tune text) s = .refused .badNumber) ∧
      (∀ v, decVal? f = some v → 2 ^ s.cfg.wCfg ≤ v → exec (.tune text) s = .refused .numberTooLarge)

/-- R187: in the fixed variant a TUNE frame changes nothing, sends nothing and is never refused, and no event but RESET
writes a tuning register. -/
def Obligations.FixedVariantIgnoresTune : Prop :=
  ∀ s : State, s.cfg.tunable = false →
    (∀ text, exec (.tune text) s = .next s) ∧
    ∀ t : State, step s = .next t → (takeEvent s).1 ≠ some .reset →
      t.minLen = s.minLen ∧ t.maxLen = s.maxLen ∧ t.minGap = s.minGap ∧ t.maxGap = s.maxGap

/-- R186, R78: TUNE_ACK prints the present registers and the block's constants. -/
def Obligations.TuneAckPrintsTheRegisters : Prop :=
  ∀ s : State, exec .tuneAck s = .next
    { s with serOut := s.serOut ++ ([0x76, 0x3A] ++ join 0x2C [dec s.minLen, dec s.maxLen,
        dec (s.minGap * 10 % 2 ^ s.cfg.wCfg), dec (s.maxGap * 10 % 2 ^ s.cfg.wCfg),
        [0x31], [0x38], [0x31, 0x36, 0x30, 0x30]] ++ [0x40]) }

/-- R188: IGNORED changes nothing, and the terminator of an IGNORED frame is stored (R171), leaves `RXIDX` = 0 and
changes nothing else. -/
def Obligations.IgnoredFrameDoesNothing : Prop :=
  ∀ s : State, exec .ignored s = .next s ∧
    (s.rxIdx < s.cfg.rxBufCap → decodeFrame (Memory.slice s.rxBuf s.rxIdx) = .ok .ignored →
      ∃ m, Memory.read m s.rxIdx = 0x40 ∧ (∀ i, i ≠ s.rxIdx → Memory.read m i = Memory.read s.rxBuf i) ∧
        exec (.rxbyte 0x40) s = .next { s with rxBuf := m, rxIdx := 0, ie := true })

/-- R12: `dec` prints the shortest spelling; `parse_dec` reads every non-empty digit string, leading zeros or not, as
the number it spells, refuses one of `2^W` or more (U6) and everything else (U2); `split` cuts at every occurrence of
the separator and loses no byte. -/
def Obligations.TextFollowsItsNotation : Prop :=
  dec 0 = [0x30] ∧ (∀ n : Nat, n ≠ 0 → (dec n).head? ≠ some 0x30) ∧
  (∀ n z w : Nat, parseDec (List.replicate z 0x30 ++ dec n) w =
    if n < 2 ^ w then .ok n else .error .numberTooLarge) ∧
  (∀ t : List Byte, t ≠ [] → (∀ b ∈ t, 0x30 ≤ b.toNat ∧ b.toNat ≤ 0x39) →
    ∃ n z, t = List.replicate z 0x30 ++ dec n) ∧
  (∀ (t : List Byte) (w : Nat), t = [] ∨ (∃ b ∈ t, ¬ (0x30 ≤ b.toNat ∧ b.toNat ≤ 0x39)) →
    parseDec t w = .error .badNumber) ∧
  ∀ (c : Byte) (t : List Byte), (split c t).length = t.count c + 1 ∧ join c (split c t) = t ∧
    ∀ p ∈ split c t, c ∉ p

/-! ### TRANSMIT and SYM -/

/-- R189 to R193, R211, R212, R216, R217: from an empty table and a low pin, TRANSMIT plays the code `R` times, one
toggle and hold per interval, levels strictly alternating from high, then forces the pin low and clears the table. -/
def Obligations.TransmitReplaysTheCode : Prop :=
  ∀ (code widths rep : List Byte) (ws : List Nat) (r : Nat) (s : State),
    s.txPin = false → (∀ k, Memory.read s.pct k = 0) →
    (∀ b ∈ code, 0x30 ≤ b.toNat ∧ b.toNat ≤ 0x39) →
    (split 0x2C widths).map decVal? = ws.map some → ws.length ≤ 10 → (∀ w ∈ ws, w < 2 ^ s.cfg.wPct) →
    decVal? rep = some r → r < 2 ^ s.cfg.wRep →
    exec (.transmit code widths rep) s = .next
      { s with
        txPin := false, pct := [], nCls := 0
        txTrace := s.txTrace ++
          replayWaveform s.cfg.txInsertMark ws (code.map (fun b => b.toNat - 0x30)) r }

/-- R189 to R191, R193, U4, U5, U2, U6: the operands are checked in the order code, widths, repeat count, and the first
that breaks its grammar decides the refusal. -/
def Obligations.TransmitRefusesBadOperands : Prop :=
  ∀ (code widths rep : List Byte) (s : State),
    ((∃ b ∈ code, isDigit b = false) → exec (.transmit code widths rep) s = .refused .badCodeByte) ∧
    ((∀ b ∈ code, isDigit b = true) →
      (10 < (split 0x2C widths).length → exec (.transmit code widths rep) s = .refused .tooManyWidths) ∧
      (∀ (good rest : List (List Byte)) (f : List Byte), split 0x2C widths = good ++ f :: rest →
        (split 0x2C widths).length ≤ 10 → (∀ g ∈ good, ∃ v, decVal? g = some v ∧ v < 2 ^ s.cfg.wPct) →
        (decVal? f = none → exec (.transmit code widths rep) s = .refused .badNumber) ∧
        (∀ v, decVal? f = some v → 2 ^ s.cfg.wPct ≤ v →
          exec (.transmit code widths rep) s = .refused .numberTooLarge)) ∧
      ((split 0x2C widths).length ≤ 10 →
        (∀ g ∈ split 0x2C widths, ∃ v, decVal? g = some v ∧ v < 2 ^ s.cfg.wPct) →
        (decVal? rep = none → exec (.transmit code widths rep) s = .refused .badNumber) ∧
        (∀ v, decVal? rep = some v → 2 ^ s.cfg.wRep ≤ v →
          exec (.transmit code widths rep) s = .refused .numberTooLarge)))

/-- R212: SYM toggles and holds for its own class, after the class-0 interval where `TX_INSERT_MARK` is true. -/
def Obligations.SymTogglesAndHolds : Prop :=
  ∀ (d : BitVec 4) (s : State), d.toNat ≤ 9 →
    (s.cfg.txInsertMark = false → exec (.sym d) s = .next
      { s with txPin := !s.txPin, txTrace := s.txTrace ++ [⟨!s.txPin, Memory.read s.pct d.toNat⟩] }) ∧
    (s.cfg.txInsertMark = true → exec (.sym d) s = .next
      { s with txTrace := s.txTrace ++ [⟨!s.txPin, Memory.read s.pct 0⟩, ⟨s.txPin, Memory.read s.pct d.toNat⟩] })

/-- R80: the low nibbles 10 to 15 are no symbols; SYM refuses them (U4; log 16 says that this is where the model puts
the refusal). -/
def Obligations.SymAboveNineIsRefused : Prop :=
  ∀ (d : BitVec 4) (s : State), 9 < d.toNat → exec (.sym d) s = .refused .badCodeByte

/-- R214, R219 (R219 derived by the spec): the segments a TRANSMIT appends to `TX_TRACE`: their number, which is that of
the toggles, the total length of the blocking region, and levels that alternate from high; the pin ends low. -/
def Obligations.ReplayTogglesAndDuration : Prop :=
  ∀ (code widths rep : List Byte) (ws : List Nat) (r : Nat) (s : State),
    s.txPin = false → (∀ k, Memory.read s.pct k = 0) →
    (∀ b ∈ code, 0x30 ≤ b.toNat ∧ b.toNat ≤ 0x39) →
    (split 0x2C widths).map decVal? = ws.map some → ws.length ≤ 10 → (∀ w ∈ ws, w < 2 ^ s.cfg.wPct) →
    decVal? rep = some r → r < 2 ^ s.cfg.wRep →
    ∃ t gs, exec (.transmit code widths rep) s = .next t ∧ t.txPin = false ∧ t.txTrace = s.txTrace ++ gs ∧
      gs.length = (if s.cfg.txInsertMark then 2 * (r * code.length) else r * code.length) ∧
      (gs.map (fun g => g.duration)).sum =
        r * (code.map (fun b => ws.getD (b.toNat - 0x30) 0)).sum +
          (if s.cfg.txInsertMark then r * code.length * ws.getD 0 0 else 0) ∧
      ∀ (i : Nat) (h : i < gs.length), gs[i].level = decide (i % 2 = 0)

/-- R218 (derived by the spec): the CAPTURED frame of a train of even length whose even positions are all class 0,
sent back with repeat count 1 to a block that inserts the class-0 interval, replays ten times the representative of
every position's class, in order. The table holds 16-bit entries or wider, and the train is not empty (an empty width
list is refused, R191). -/
def Obligations.CapturedTrainRoundTrips : Prop :=
  ∀ (s : State) (ws : List Nat),
    s.cfg.txInsertMark = true → s.txPin = false → (∀ k, Memory.read s.pct k = 0) →
    16 ≤ s.cfg.wPct → 0 < s.cfg.wRep → s.cfg.overflowClass < 10 →
    ws ≠ [] → ws.length % 2 = 0 → (∀ w ∈ ws, w < 1600) →
    (∀ (i : Nat) (h : i < ws.length), i % 2 = 0 → classIn s.cfg (representatives s.cfg ws) ws[i] = 0) →
    exec (.transmit (trainCode s.cfg ws)
        (join 0x2C ((representatives s.cfg ws).map (fun c => dec (c * 10)))) [0x31]) s = .next
      { s with
        txPin := false, pct := [], nCls := 0
        txTrace := s.txTrace ++ alternating true
          (ws.map (fun w => (representatives s.cfg ws).getD (classIn s.cfg (representatives s.cfg ws) w) 0 * 10)) }

/-! ### Encodings -/

/-- R71 to R80, R84: decoding the bytes of a well-formed operation of any format gives the operation back. -/
def Obligations.DecodeInvertsEncode : Prop :=
  ∀ (p : Params) (i : Instr), i.wellFormed p = true → decode i.format (encode i) = .ok i

/-- R83 (derived by the spec): an outbound stream of well-formed units parses uniquely, with all their numbers. -/
def Obligations.OutboundStreamParsesUniquely : Prop :=
  ∀ (os : List OutFrame) (fuel : Nat), os.length ≤ fuel →
    (∀ o ∈ os, ∀ code ws, o = .captured code ws → code.all isDigit = true) →
    decodeOutStream fuel (os.flatMap OutFrame.encode) = .ok os

/-- R71: exactly the four one-hot vectors are events. -/
def Obligations.OneHotVectorsAreEvents : Prop :=
  ∀ (v : EventVector) (b : Byte) (i : Instr), decodeEvent v b = .ok i ↔
    (v = 8#4 ∧ i = .reset) ∨ (v = 4#4 ∧ i = .rxbyte b) ∨ (v = 2#4 ∧ i = .edge) ∨ (v = 1#4 ∧ i = .tick)

/-- R80: exactly the bytes 0x30 to 0x39 are symbols, each the symbol of its low nibble. -/
def Obligations.SymbolsAreTheDigits : Prop :=
  ∀ (b : Byte) (i : Instr), decodeSym b = .ok i ↔
    ∃ d : BitVec 4, i = .sym d ∧ d.toNat ≤ 9 ∧ b.toNat = 0x30 + d.toNat

/-- Bytes that stand for operations decode to them. The frames and the symbol are written from R74 to R80; that an event
request is one byte with R71's vector in its low bits, followed for RXBYTE by its data, is the model's byte form
(log 13), and that CAPTURED has its code alone for operand is the model's choice (log 12). -/
def Obligations.WrittenWordsDecode : Prop :=
  decode .evt [0x08] = .ok .reset ∧ decode .evt [0x01] = .ok .tick ∧ decode .evt [0x02] = .ok .edge ∧
  decode .evt [0x04, 0x73] = .ok (.rxbyte 0x73) ∧
  decode .frmIn [0x73, 0x3A, 0x35, 0x40] = .ok (.tune [0x35]) ∧
  decode .frmIn [0x63, 0x3A, 0x31, 0x3B, 0x70, 0x3A, 0x37, 0x3B, 0x72, 0x3A, 0x32, 0x40] =
    .ok (.transmit [0x31] [0x37] [0x32]) ∧
  decode .frmIn [0x40] = .ok .ignored ∧ decode .sym [0x39] = .ok (.sym 9) ∧
  decode .frmOut [0x63, 0x3A, 0x31, 0x3B, 0x70, 0x3A, 0x39, 0x30, 0x40] = .ok (.captured [0x31]) ∧
  decode .frmOut [0x0A] = .ok .heartbeat

/-! ### Whole-machine rules -/

/-- R5, R71: where the next delivered vector decodes to an event, a step is the handler of that event on the state
without the delivery. -/
def Obligations.StepRunsTheDeliveredEvent : Prop :=
  ∀ (s : State) (r : Request) (rest : List Request) (i : Instr), s.input = r :: rest →
    decodeEvent r.vector r.data = .ok i → step s = exec i { s with input := rest }

/-- R236: RESET overrides any simultaneous event, which is then lost. -/
def Obligations.ResetOverridesSimultaneousEvents : Prop :=
  ∀ (s : State) (r : Request) (rest : List Request), s.input = r :: rest → r.vector.getLsbD 3 = true →
    step s = exec .reset { s with input := rest }

/-- R236: other simultaneous events are delivered one after another: a step takes one of them and leaves the others,
and which one it takes is the free value of the counter `choice` (log 7). -/
def Obligations.SimultaneousEventsAreSerialised : Prop :=
  ∀ (s : State) (r : Request) (rest : List Request), s.input = r :: rest → r.vector.getLsbD 3 = false →
    decodeEvent r.vector r.data = .error .severalEvents →
    ∃ h i, (h = 1#4 ∨ h = 2#4 ∨ h = 4#4) ∧ r.vector &&& h = h ∧ decodeEvent h r.data = .ok i ∧
      step s = exec i { s with input := ⟨r.vector ^^^ h, r.data⟩ :: rest, choice := s.choice + 1 }

/-- R239, R35: every handler that completes leaves `IE` set, on every path, and no handler's outcome depends on the `IE`
it was entered with. -/
def Obligations.HandlersRestoreInterrupts : Prop :=
  ∀ (i : Instr) (s : State), i.format = .evt →
    (∀ t, exec i s = .next t → t.ie = true) ∧ ∀ b, exec i { s with ie := b } = exec i s

/-- R5, R71: between events no state changes, and the vector `0000` is no event. That a step may find nothing delivered,
and that it takes the vector `0000` out of the queue, is the model's reading (log 15) over its own queue (log 6). -/
def Obligations.IdleChangesNothing : Prop :=
  ∀ s : State, (s.input = [] → step s = .next s) ∧
    ∀ (r : Request) (rest : List Request), s.input = r :: rest → r.vector = 0#4 →
      step s = .next { s with input := rest }

/-- R40 (derived by the spec): every step keeps the step-boundary invariant. -/
def Obligations.StepKeepsTheInvariant : Prop :=
  ∀ s t : State, s.Inv → step s = .next t → t.Inv

/-- R51 to R53, R55, R230: from a state that meets the invariant no index runs out of range, so no step faults. -/
def Obligations.NoFaultFromAStepBoundary : Prop :=
  ∀ s : State, s.Inv → ∀ f, step s ≠ .fault f

/-- R11, R232: a step is refused only at the terminator of a received frame. -/
def Obligations.OnlyATerminatorIsRefused : Prop :=
  ∀ (s : State) (r : Refusal), step s = .refused r → (takeEvent s).1 = some (.rxbyte 0x40)

/-- R39: no step changes the parameters. -/
def Obligations.ParametersNeverChange : Prop :=
  ∀ s t : State, step s = .next t → t.cfg = s.cfg

/-- R27 to R29, R31: the tuning registers are written by RESET and, where `TUNABLE` is true, by the terminator of a TUNE
frame; by nothing else. -/
def Obligations.TuningRegistersChangeOnlyByTune : Prop :=
  ∀ s t : State, step s = .next t → (takeEvent s).1 ≠ some .reset →
    (s.cfg.tunable = false ∨ ¬ ∃ text, (takeEvent s).1 = some (.rxbyte 0x40) ∧
      decodeFrame (Memory.slice s.rxBuf s.rxIdx) = .ok (.tune text)) →
    t.minLen = s.minLen ∧ t.maxLen = s.maxLen ∧ t.minGap = s.minGap ∧ t.maxGap = s.maxGap

/-- R33, R34: until RESET the two observations only grow at their end. -/
def Obligations.ObservationsOnlyGrow : Prop :=
  ∀ s t : State, step s = .next t → (takeEvent s).1 ≠ some .reset →
    (∃ bs, t.serOut = s.serOut ++ bs) ∧ ∃ gs, t.txTrace = s.txTrace ++ gs

/-- R23, R30, U8: elements of `TRAIN` at or beyond `TIDX` and of `RXBUF` at or beyond `RXIDX` are never read: two
states that differ only there take the same kind of step and differ only there afterwards. So the contents these
arrays have at power-on (log 5) cannot matter. -/
def Obligations.UnreadElementsDoNotMatter : Prop :=
  ∀ s u : State, s.AgreeWhereRead u →
    match step s, step u with
    | .next s', .next u' => s'.AgreeWhereRead u'
    | .refused r, .refused r' => r = r'
    | .fault f, .fault f' => f = f'
    | _, _ => False
end

