-- ==== Sys2Proof/Laws/State.lean ====
section
/-! SUPPORT. One lemma per field per update of the state, each true by unfolding the update once, so that no later
proof unfolds a record update. -/

namespace Sys2Proof.Machine

/-! ### enterHandler -/

@[simp] theorem enterHandler_tick (s : State) : (enterHandler s).tick = s.tick := rfl
@[simp] theorem enterHandler_hbCnt (s : State) : (enterHandler s).hbCnt = s.hbCnt := rfl
@[simp] theorem enterHandler_train (s : State) : (enterHandler s).train = s.train := rfl
@[simp] theorem enterHandler_tIdx (s : State) : (enterHandler s).tIdx = s.tIdx := rfl
@[simp] theorem enterHandler_rpt (s : State) : (enterHandler s).rpt = s.rpt := rfl
@[simp] theorem enterHandler_pct (s : State) : (enterHandler s).pct = s.pct := rfl
@[simp] theorem enterHandler_nCls (s : State) : (enterHandler s).nCls = s.nCls := rfl
@[simp] theorem enterHandler_minLen (s : State) : (enterHandler s).minLen = s.minLen := rfl
@[simp] theorem enterHandler_maxLen (s : State) : (enterHandler s).maxLen = s.maxLen := rfl
@[simp] theorem enterHandler_minGap (s : State) : (enterHandler s).minGap = s.minGap := rfl
@[simp] theorem enterHandler_maxGap (s : State) : (enterHandler s).maxGap = s.maxGap := rfl
@[simp] theorem enterHandler_rxBuf (s : State) : (enterHandler s).rxBuf = s.rxBuf := rfl
@[simp] theorem enterHandler_rxIdx (s : State) : (enterHandler s).rxIdx = s.rxIdx := rfl
@[simp] theorem enterHandler_txPin (s : State) : (enterHandler s).txPin = s.txPin := rfl
@[simp] theorem enterHandler_serOut (s : State) : (enterHandler s).serOut = s.serOut := rfl
@[simp] theorem enterHandler_txTrace (s : State) : (enterHandler s).txTrace = s.txTrace := rfl
@[simp] theorem enterHandler_ie (s : State) : (enterHandler s).ie = false := rfl
@[simp] theorem enterHandler_input (s : State) : (enterHandler s).input = s.input := rfl
@[simp] theorem enterHandler_choice (s : State) : (enterHandler s).choice = s.choice := rfl
@[simp] theorem enterHandler_cfg (s : State) : (enterHandler s).cfg = s.cfg := rfl

/-! ### leaveHandler -/

@[simp] theorem leaveHandler_tick (s : State) : (leaveHandler s).tick = s.tick := rfl
@[simp] theorem leaveHandler_hbCnt (s : State) : (leaveHandler s).hbCnt = s.hbCnt := rfl
@[simp] theorem leaveHandler_train (s : State) : (leaveHandler s).train = s.train := rfl
@[simp] theorem leaveHandler_tIdx (s : State) : (leaveHandler s).tIdx = s.tIdx := rfl
@[simp] theorem leaveHandler_rpt (s : State) : (leaveHandler s).rpt = s.rpt := rfl
@[simp] theorem leaveHandler_pct (s : State) : (leaveHandler s).pct = s.pct := rfl
@[simp] theorem leaveHandler_nCls (s : State) : (leaveHandler s).nCls = s.nCls := rfl
@[simp] theorem leaveHandler_minLen (s : State) : (leaveHandler s).minLen = s.minLen := rfl
@[simp] theorem leaveHandler_maxLen (s : State) : (leaveHandler s).maxLen = s.maxLen := rfl
@[simp] theorem leaveHandler_minGap (s : State) : (leaveHandler s).minGap = s.minGap := rfl
@[simp] theorem leaveHandler_maxGap (s : State) : (leaveHandler s).maxGap = s.maxGap := rfl
@[simp] theorem leaveHandler_rxBuf (s : State) : (leaveHandler s).rxBuf = s.rxBuf := rfl
@[simp] theorem leaveHandler_rxIdx (s : State) : (leaveHandler s).rxIdx = s.rxIdx := rfl
@[simp] theorem leaveHandler_txPin (s : State) : (leaveHandler s).txPin = s.txPin := rfl
@[simp] theorem leaveHandler_serOut (s : State) : (leaveHandler s).serOut = s.serOut := rfl
@[simp] theorem leaveHandler_txTrace (s : State) : (leaveHandler s).txTrace = s.txTrace := rfl
@[simp] theorem leaveHandler_ie (s : State) : (leaveHandler s).ie = true := rfl
@[simp] theorem leaveHandler_input (s : State) : (leaveHandler s).input = s.input := rfl
@[simp] theorem leaveHandler_choice (s : State) : (leaveHandler s).choice = s.choice := rfl
@[simp] theorem leaveHandler_cfg (s : State) : (leaveHandler s).cfg = s.cfg := rfl

/-! ### emit -/

@[simp] theorem emit_tick (bs : List Byte) (s : State) : (emit bs s).tick = s.tick := rfl
@[simp] theorem emit_hbCnt (bs : List Byte) (s : State) : (emit bs s).hbCnt = s.hbCnt := rfl
@[simp] theorem emit_train (bs : List Byte) (s : State) : (emit bs s).train = s.train := rfl
@[simp] theorem emit_tIdx (bs : List Byte) (s : State) : (emit bs s).tIdx = s.tIdx := rfl
@[simp] theorem emit_rpt (bs : List Byte) (s : State) : (emit bs s).rpt = s.rpt := rfl
@[simp] theorem emit_pct (bs : List Byte) (s : State) : (emit bs s).pct = s.pct := rfl
@[simp] theorem emit_nCls (bs : List Byte) (s : State) : (emit bs s).nCls = s.nCls := rfl
@[simp] theorem emit_minLen (bs : List Byte) (s : State) : (emit bs s).minLen = s.minLen := rfl
@[simp] theorem emit_maxLen (bs : List Byte) (s : State) : (emit bs s).maxLen = s.maxLen := rfl
@[simp] theorem emit_minGap (bs : List Byte) (s : State) : (emit bs s).minGap = s.minGap := rfl
@[simp] theorem emit_maxGap (bs : List Byte) (s : State) : (emit bs s).maxGap = s.maxGap := rfl
@[simp] theorem emit_rxBuf (bs : List Byte) (s : State) : (emit bs s).rxBuf = s.rxBuf := rfl
@[simp] theorem emit_rxIdx (bs : List Byte) (s : State) : (emit bs s).rxIdx = s.rxIdx := rfl
@[simp] theorem emit_txPin (bs : List Byte) (s : State) : (emit bs s).txPin = s.txPin := rfl
@[simp] theorem emit_serOut (bs : List Byte) (s : State) : (emit bs s).serOut = s.serOut ++ bs := rfl
@[simp] theorem emit_txTrace (bs : List Byte) (s : State) : (emit bs s).txTrace = s.txTrace := rfl
@[simp] theorem emit_ie (bs : List Byte) (s : State) : (emit bs s).ie = s.ie := rfl
@[simp] theorem emit_input (bs : List Byte) (s : State) : (emit bs s).input = s.input := rfl
@[simp] theorem emit_choice (bs : List Byte) (s : State) : (emit bs s).choice = s.choice := rfl
@[simp] theorem emit_cfg (bs : List Byte) (s : State) : (emit bs s).cfg = s.cfg := rfl

/-! ### toggle -/

@[simp] theorem toggle_tick (s : State) : (toggle s).tick = s.tick := rfl
@[simp] theorem toggle_hbCnt (s : State) : (toggle s).hbCnt = s.hbCnt := rfl
@[simp] theorem toggle_train (s : State) : (toggle s).train = s.train := rfl
@[simp] theorem toggle_tIdx (s : State) : (toggle s).tIdx = s.tIdx := rfl
@[simp] theorem toggle_rpt (s : State) : (toggle s).rpt = s.rpt := rfl
@[simp] theorem toggle_pct (s : State) : (toggle s).pct = s.pct := rfl
@[simp] theorem toggle_nCls (s : State) : (toggle s).nCls = s.nCls := rfl
@[simp] theorem toggle_minLen (s : State) : (toggle s).minLen = s.minLen := rfl
@[simp] theorem toggle_maxLen (s : State) : (toggle s).maxLen = s.maxLen := rfl
@[simp] theorem toggle_minGap (s : State) : (toggle s).minGap = s.minGap := rfl
@[simp] theorem toggle_maxGap (s : State) : (toggle s).maxGap = s.maxGap := rfl
@[simp] theorem toggle_rxBuf (s : State) : (toggle s).rxBuf = s.rxBuf := rfl
@[simp] theorem toggle_rxIdx (s : State) : (toggle s).rxIdx = s.rxIdx := rfl
@[simp] theorem toggle_txPin (s : State) : (toggle s).txPin = !s.txPin := rfl
@[simp] theorem toggle_serOut (s : State) : (toggle s).serOut = s.serOut := rfl
@[simp] theorem toggle_txTrace (s : State) : (toggle s).txTrace = s.txTrace := rfl
@[simp] theorem toggle_ie (s : State) : (toggle s).ie = s.ie := rfl
@[simp] theorem toggle_input (s : State) : (toggle s).input = s.input := rfl
@[simp] theorem toggle_choice (s : State) : (toggle s).choice = s.choice := rfl
@[simp] theorem toggle_cfg (s : State) : (toggle s).cfg = s.cfg := rfl

/-! ### hold -/

@[simp] theorem hold_tick (n : Nat) (s : State) : (hold n s).tick = s.tick := rfl
@[simp] theorem hold_hbCnt (n : Nat) (s : State) : (hold n s).hbCnt = s.hbCnt := rfl
@[simp] theorem hold_train (n : Nat) (s : State) : (hold n s).train = s.train := rfl
@[simp] theorem hold_tIdx (n : Nat) (s : State) : (hold n s).tIdx = s.tIdx := rfl
@[simp] theorem hold_rpt (n : Nat) (s : State) : (hold n s).rpt = s.rpt := rfl
@[simp] theorem hold_pct (n : Nat) (s : State) : (hold n s).pct = s.pct := rfl
@[simp] theorem hold_nCls (n : Nat) (s : State) : (hold n s).nCls = s.nCls := rfl
@[simp] theorem hold_minLen (n : Nat) (s : State) : (hold n s).minLen = s.minLen := rfl
@[simp] theorem hold_maxLen (n : Nat) (s : State) : (hold n s).maxLen = s.maxLen := rfl
@[simp] theorem hold_minGap (n : Nat) (s : State) : (hold n s).minGap = s.minGap := rfl
@[simp] theorem hold_maxGap (n : Nat) (s : State) : (hold n s).maxGap = s.maxGap := rfl
@[simp] theorem hold_rxBuf (n : Nat) (s : State) : (hold n s).rxBuf = s.rxBuf := rfl
@[simp] theorem hold_rxIdx (n : Nat) (s : State) : (hold n s).rxIdx = s.rxIdx := rfl
@[simp] theorem hold_txPin (n : Nat) (s : State) : (hold n s).txPin = s.txPin := rfl
@[simp] theorem hold_serOut (n : Nat) (s : State) : (hold n s).serOut = s.serOut := rfl
@[simp] theorem hold_txTrace (n : Nat) (s : State) : (hold n s).txTrace = s.txTrace ++ [⟨s.txPin, n⟩] := rfl
@[simp] theorem hold_ie (n : Nat) (s : State) : (hold n s).ie = s.ie := rfl
@[simp] theorem hold_input (n : Nat) (s : State) : (hold n s).input = s.input := rfl
@[simp] theorem hold_choice (n : Nat) (s : State) : (hold n s).choice = s.choice := rfl
@[simp] theorem hold_cfg (n : Nat) (s : State) : (hold n s).cfg = s.cfg := rfl

/-! ### clearTable -/

@[simp] theorem clearTable_tick (s : State) : (clearTable s).tick = s.tick := rfl
@[simp] theorem clearTable_hbCnt (s : State) : (clearTable s).hbCnt = s.hbCnt := rfl
@[simp] theorem clearTable_train (s : State) : (clearTable s).train = s.train := rfl
@[simp] theorem clearTable_tIdx (s : State) : (clearTable s).tIdx = s.tIdx := rfl
@[simp] theorem clearTable_rpt (s : State) : (clearTable s).rpt = s.rpt := rfl
@[simp] theorem clearTable_pct (s : State) : (clearTable s).pct = [] := rfl
@[simp] theorem clearTable_nCls (s : State) : (clearTable s).nCls = 0 := rfl
@[simp] theorem clearTable_minLen (s : State) : (clearTable s).minLen = s.minLen := rfl
@[simp] theorem clearTable_maxLen (s : State) : (clearTable s).maxLen = s.maxLen := rfl
@[simp] theorem clearTable_minGap (s : State) : (clearTable s).minGap = s.minGap := rfl
@[simp] theorem clearTable_maxGap (s : State) : (clearTable s).maxGap = s.maxGap := rfl
@[simp] theorem clearTable_rxBuf (s : State) : (clearTable s).rxBuf = s.rxBuf := rfl
@[simp] theorem clearTable_rxIdx (s : State) : (clearTable s).rxIdx = s.rxIdx := rfl
@[simp] theorem clearTable_txPin (s : State) : (clearTable s).txPin = s.txPin := rfl
@[simp] theorem clearTable_serOut (s : State) : (clearTable s).serOut = s.serOut := rfl
@[simp] theorem clearTable_txTrace (s : State) : (clearTable s).txTrace = s.txTrace := rfl
@[simp] theorem clearTable_ie (s : State) : (clearTable s).ie = s.ie := rfl
@[simp] theorem clearTable_input (s : State) : (clearTable s).input = s.input := rfl
@[simp] theorem clearTable_choice (s : State) : (clearTable s).choice = s.choice := rfl
@[simp] theorem clearTable_cfg (s : State) : (clearTable s).cfg = s.cfg := rfl

/-! ### storeByte -/

@[simp] theorem storeByte_tick (b : Byte) (s : State) : (storeByte b s).tick = s.tick := rfl
@[simp] theorem storeByte_hbCnt (b : Byte) (s : State) : (storeByte b s).hbCnt = s.hbCnt := rfl
@[simp] theorem storeByte_train (b : Byte) (s : State) : (storeByte b s).train = s.train := rfl
@[simp] theorem storeByte_tIdx (b : Byte) (s : State) : (storeByte b s).tIdx = s.tIdx := rfl
@[simp] theorem storeByte_rpt (b : Byte) (s : State) : (storeByte b s).rpt = s.rpt := rfl
@[simp] theorem storeByte_pct (b : Byte) (s : State) : (storeByte b s).pct = s.pct := rfl
@[simp] theorem storeByte_nCls (b : Byte) (s : State) : (storeByte b s).nCls = s.nCls := rfl
@[simp] theorem storeByte_minLen (b : Byte) (s : State) : (storeByte b s).minLen = s.minLen := rfl
@[simp] theorem storeByte_maxLen (b : Byte) (s : State) : (storeByte b s).maxLen = s.maxLen := rfl
@[simp] theorem storeByte_minGap (b : Byte) (s : State) : (storeByte b s).minGap = s.minGap := rfl
@[simp] theorem storeByte_maxGap (b : Byte) (s : State) : (storeByte b s).maxGap = s.maxGap := rfl
@[simp] theorem storeByte_rxBuf (b : Byte) (s : State) : (storeByte b s).rxBuf = Memory.write s.rxBuf s.rxIdx b := rfl
@[simp] theorem storeByte_rxIdx (b : Byte) (s : State) : (storeByte b s).rxIdx = s.rxIdx + 1 := rfl
@[simp] theorem storeByte_txPin (b : Byte) (s : State) : (storeByte b s).txPin = s.txPin := rfl
@[simp] theorem storeByte_serOut (b : Byte) (s : State) : (storeByte b s).serOut = s.serOut := rfl
@[simp] theorem storeByte_txTrace (b : Byte) (s : State) : (storeByte b s).txTrace = s.txTrace := rfl
@[simp] theorem storeByte_ie (b : Byte) (s : State) : (storeByte b s).ie = s.ie := rfl
@[simp] theorem storeByte_input (b : Byte) (s : State) : (storeByte b s).input = s.input := rfl
@[simp] theorem storeByte_choice (b : Byte) (s : State) : (storeByte b s).choice = s.choice := rfl
@[simp] theorem storeByte_cfg (b : Byte) (s : State) : (storeByte b s).cfg = s.cfg := rfl

/-! ### clearRx -/

@[simp] theorem clearRx_tick (s : State) : (clearRx s).tick = s.tick := rfl
@[simp] theorem clearRx_hbCnt (s : State) : (clearRx s).hbCnt = s.hbCnt := rfl
@[simp] theorem clearRx_train (s : State) : (clearRx s).train = s.train := rfl
@[simp] theorem clearRx_tIdx (s : State) : (clearRx s).tIdx = s.tIdx := rfl
@[simp] theorem clearRx_rpt (s : State) : (clearRx s).rpt = s.rpt := rfl
@[simp] theorem clearRx_pct (s : State) : (clearRx s).pct = s.pct := rfl
@[simp] theorem clearRx_nCls (s : State) : (clearRx s).nCls = s.nCls := rfl
@[simp] theorem clearRx_minLen (s : State) : (clearRx s).minLen = s.minLen := rfl
@[simp] theorem clearRx_maxLen (s : State) : (clearRx s).maxLen = s.maxLen := rfl
@[simp] theorem clearRx_minGap (s : State) : (clearRx s).minGap = s.minGap := rfl
@[simp] theorem clearRx_maxGap (s : State) : (clearRx s).maxGap = s.maxGap := rfl
@[simp] theorem clearRx_rxBuf (s : State) : (clearRx s).rxBuf = s.rxBuf := rfl
@[simp] theorem clearRx_rxIdx (s : State) : (clearRx s).rxIdx = 0 := rfl
@[simp] theorem clearRx_txPin (s : State) : (clearRx s).txPin = s.txPin := rfl
@[simp] theorem clearRx_serOut (s : State) : (clearRx s).serOut = s.serOut := rfl
@[simp] theorem clearRx_txTrace (s : State) : (clearRx s).txTrace = s.txTrace := rfl
@[simp] theorem clearRx_ie (s : State) : (clearRx s).ie = s.ie := rfl
@[simp] theorem clearRx_input (s : State) : (clearRx s).input = s.input := rfl
@[simp] theorem clearRx_choice (s : State) : (clearRx s).choice = s.choice := rfl
@[simp] theorem clearRx_cfg (s : State) : (clearRx s).cfg = s.cfg := rfl

/-! ### sendHeartbeat -/

@[simp] theorem sendHeartbeat_tick (s : State) : (sendHeartbeat s).tick = s.tick := rfl
@[simp] theorem sendHeartbeat_hbCnt (s : State) : (sendHeartbeat s).hbCnt = 0 := rfl
@[simp] theorem sendHeartbeat_train (s : State) : (sendHeartbeat s).train = s.train := rfl
@[simp] theorem sendHeartbeat_tIdx (s : State) : (sendHeartbeat s).tIdx = s.tIdx := rfl
@[simp] theorem sendHeartbeat_rpt (s : State) : (sendHeartbeat s).rpt = s.rpt := rfl
@[simp] theorem sendHeartbeat_pct (s : State) : (sendHeartbeat s).pct = s.pct := rfl
@[simp] theorem sendHeartbeat_nCls (s : State) : (sendHeartbeat s).nCls = s.nCls := rfl
@[simp] theorem sendHeartbeat_minLen (s : State) : (sendHeartbeat s).minLen = s.minLen := rfl
@[simp] theorem sendHeartbeat_maxLen (s : State) : (sendHeartbeat s).maxLen = s.maxLen := rfl
@[simp] theorem sendHeartbeat_minGap (s : State) : (sendHeartbeat s).minGap = s.minGap := rfl
@[simp] theorem sendHeartbeat_maxGap (s : State) : (sendHeartbeat s).maxGap = s.maxGap := rfl
@[simp] theorem sendHeartbeat_rxBuf (s : State) : (sendHeartbeat s).rxBuf = s.rxBuf := rfl
@[simp] theorem sendHeartbeat_rxIdx (s : State) : (sendHeartbeat s).rxIdx = s.rxIdx := rfl
@[simp] theorem sendHeartbeat_txPin (s : State) : (sendHeartbeat s).txPin = s.txPin := rfl
@[simp] theorem sendHeartbeat_serOut (s : State) : (sendHeartbeat s).serOut = s.serOut ++ [Config.hbByte] := rfl
@[simp] theorem sendHeartbeat_txTrace (s : State) : (sendHeartbeat s).txTrace = s.txTrace := rfl
@[simp] theorem sendHeartbeat_ie (s : State) : (sendHeartbeat s).ie = s.ie := rfl
@[simp] theorem sendHeartbeat_input (s : State) : (sendHeartbeat s).input = s.input := rfl
@[simp] theorem sendHeartbeat_choice (s : State) : (sendHeartbeat s).choice = s.choice := rfl
@[simp] theorem sendHeartbeat_cfg (s : State) : (sendHeartbeat s).cfg = s.cfg := rfl

/-! ### loadTable -/

@[simp] theorem loadTable_tick (ws : List Nat) (s : State) : (loadTable ws s).tick = s.tick := rfl
@[simp] theorem loadTable_hbCnt (ws : List Nat) (s : State) : (loadTable ws s).hbCnt = s.hbCnt := rfl
@[simp] theorem loadTable_train (ws : List Nat) (s : State) : (loadTable ws s).train = s.train := rfl
@[simp] theorem loadTable_tIdx (ws : List Nat) (s : State) : (loadTable ws s).tIdx = s.tIdx := rfl
@[simp] theorem loadTable_rpt (ws : List Nat) (s : State) : (loadTable ws s).rpt = s.rpt := rfl
@[simp] theorem loadTable_pct (ws : List Nat) (s : State) : (loadTable ws s).pct = Memory.writeList s.pct 0 ws := rfl
@[simp] theorem loadTable_nCls (ws : List Nat) (s : State) : (loadTable ws s).nCls = ws.length := rfl
@[simp] theorem loadTable_minLen (ws : List Nat) (s : State) : (loadTable ws s).minLen = s.minLen := rfl
@[simp] theorem loadTable_maxLen (ws : List Nat) (s : State) : (loadTable ws s).maxLen = s.maxLen := rfl
@[simp] theorem loadTable_minGap (ws : List Nat) (s : State) : (loadTable ws s).minGap = s.minGap := rfl
@[simp] theorem loadTable_maxGap (ws : List Nat) (s : State) : (loadTable ws s).maxGap = s.maxGap := rfl
@[simp] theorem loadTable_rxBuf (ws : List Nat) (s : State) : (loadTable ws s).rxBuf = s.rxBuf := rfl
@[simp] theorem loadTable_rxIdx (ws : List Nat) (s : State) : (loadTable ws s).rxIdx = s.rxIdx := rfl
@[simp] theorem loadTable_txPin (ws : List Nat) (s : State) : (loadTable ws s).txPin = s.txPin := rfl
@[simp] theorem loadTable_serOut (ws : List Nat) (s : State) : (loadTable ws s).serOut = s.serOut := rfl
@[simp] theorem loadTable_txTrace (ws : List Nat) (s : State) : (loadTable ws s).txTrace = s.txTrace := rfl
@[simp] theorem loadTable_ie (ws : List Nat) (s : State) : (loadTable ws s).ie = s.ie := rfl
@[simp] theorem loadTable_input (ws : List Nat) (s : State) : (loadTable ws s).input = s.input := rfl
@[simp] theorem loadTable_choice (ws : List Nat) (s : State) : (loadTable ws s).choice = s.choice := rfl
@[simp] theorem loadTable_cfg (ws : List Nat) (s : State) : (loadTable ws s).cfg = s.cfg := rfl

/-! ### emitCaptured -/

@[simp] theorem emitCaptured_tick (code : List Byte) (s : State) : (emitCaptured code s).tick = s.tick := rfl
@[simp] theorem emitCaptured_hbCnt (code : List Byte) (s : State) : (emitCaptured code s).hbCnt = s.hbCnt := rfl
@[simp] theorem emitCaptured_train (code : List Byte) (s : State) : (emitCaptured code s).train = s.train := rfl
@[simp] theorem emitCaptured_tIdx (code : List Byte) (s : State) : (emitCaptured code s).tIdx = s.tIdx := rfl
@[simp] theorem emitCaptured_rpt (code : List Byte) (s : State) : (emitCaptured code s).rpt = s.rpt := rfl
@[simp] theorem emitCaptured_pct (code : List Byte) (s : State) : (emitCaptured code s).pct = s.pct := rfl
@[simp] theorem emitCaptured_nCls (code : List Byte) (s : State) : (emitCaptured code s).nCls = s.nCls := rfl
@[simp] theorem emitCaptured_minLen (code : List Byte) (s : State) : (emitCaptured code s).minLen = s.minLen := rfl
@[simp] theorem emitCaptured_maxLen (code : List Byte) (s : State) : (emitCaptured code s).maxLen = s.maxLen := rfl
@[simp] theorem emitCaptured_minGap (code : List Byte) (s : State) : (emitCaptured code s).minGap = s.minGap := rfl
@[simp] theorem emitCaptured_maxGap (code : List Byte) (s : State) : (emitCaptured code s).maxGap = s.maxGap := rfl
@[simp] theorem emitCaptured_rxBuf (code : List Byte) (s : State) : (emitCaptured code s).rxBuf = s.rxBuf := rfl
@[simp] theorem emitCaptured_rxIdx (code : List Byte) (s : State) : (emitCaptured code s).rxIdx = s.rxIdx := rfl
@[simp] theorem emitCaptured_txPin (code : List Byte) (s : State) : (emitCaptured code s).txPin = s.txPin := rfl
@[simp] theorem emitCaptured_serOut (code : List Byte) (s : State) : (emitCaptured code s).serOut = s.serOut ++ (OutFrame.captured code ((allocated s).map (fun c => c * Config.outScale))).encode := rfl
@[simp] theorem emitCaptured_txTrace (code : List Byte) (s : State) : (emitCaptured code s).txTrace = s.txTrace := rfl
@[simp] theorem emitCaptured_ie (code : List Byte) (s : State) : (emitCaptured code s).ie = s.ie := rfl
@[simp] theorem emitCaptured_input (code : List Byte) (s : State) : (emitCaptured code s).input = s.input := rfl
@[simp] theorem emitCaptured_choice (code : List Byte) (s : State) : (emitCaptured code s).choice = s.choice := rfl
@[simp] theorem emitCaptured_cfg (code : List Byte) (s : State) : (emitCaptured code s).cfg = s.cfg := rfl

/-! ### emitTuneAck -/

@[simp] theorem emitTuneAck_tick (s : State) : (emitTuneAck s).tick = s.tick := rfl
@[simp] theorem emitTuneAck_hbCnt (s : State) : (emitTuneAck s).hbCnt = s.hbCnt := rfl
@[simp] theorem emitTuneAck_train (s : State) : (emitTuneAck s).train = s.train := rfl
@[simp] theorem emitTuneAck_tIdx (s : State) : (emitTuneAck s).tIdx = s.tIdx := rfl
@[simp] theorem emitTuneAck_rpt (s : State) : (emitTuneAck s).rpt = s.rpt := rfl
@[simp] theorem emitTuneAck_pct (s : State) : (emitTuneAck s).pct = s.pct := rfl
@[simp] theorem emitTuneAck_nCls (s : State) : (emitTuneAck s).nCls = s.nCls := rfl
@[simp] theorem emitTuneAck_minLen (s : State) : (emitTuneAck s).minLen = s.minLen := rfl
@[simp] theorem emitTuneAck_maxLen (s : State) : (emitTuneAck s).maxLen = s.maxLen := rfl
@[simp] theorem emitTuneAck_minGap (s : State) : (emitTuneAck s).minGap = s.minGap := rfl
@[simp] theorem emitTuneAck_maxGap (s : State) : (emitTuneAck s).maxGap = s.maxGap := rfl
@[simp] theorem emitTuneAck_rxBuf (s : State) : (emitTuneAck s).rxBuf = s.rxBuf := rfl
@[simp] theorem emitTuneAck_rxIdx (s : State) : (emitTuneAck s).rxIdx = s.rxIdx := rfl
@[simp] theorem emitTuneAck_txPin (s : State) : (emitTuneAck s).txPin = s.txPin := rfl
@[simp] theorem emitTuneAck_serOut (s : State) : (emitTuneAck s).serOut = s.serOut ++ (OutFrame.tuneAck s.minLen s.maxLen (s.minGap * Config.ackGapMul % 2 ^ s.cfg.wCfg) (s.maxGap * Config.ackGapMul % 2 ^ s.cfg.wCfg)).encode := rfl
@[simp] theorem emitTuneAck_txTrace (s : State) : (emitTuneAck s).txTrace = s.txTrace := rfl
@[simp] theorem emitTuneAck_ie (s : State) : (emitTuneAck s).ie = s.ie := rfl
@[simp] theorem emitTuneAck_input (s : State) : (emitTuneAck s).input = s.input := rfl
@[simp] theorem emitTuneAck_choice (s : State) : (emitTuneAck s).choice = s.choice := rfl
@[simp] theorem emitTuneAck_cfg (s : State) : (emitTuneAck s).cfg = s.cfg := rfl

/-! ### interval -/

@[simp] theorem interval_tick (d : Nat) (s : State) : (interval d s).tick = s.tick := rfl
@[simp] theorem interval_hbCnt (d : Nat) (s : State) : (interval d s).hbCnt = s.hbCnt := rfl
@[simp] theorem interval_train (d : Nat) (s : State) : (interval d s).train = s.train := rfl
@[simp] theorem interval_tIdx (d : Nat) (s : State) : (interval d s).tIdx = s.tIdx := rfl
@[simp] theorem interval_rpt (d : Nat) (s : State) : (interval d s).rpt = s.rpt := rfl
@[simp] theorem interval_pct (d : Nat) (s : State) : (interval d s).pct = s.pct := rfl
@[simp] theorem interval_nCls (d : Nat) (s : State) : (interval d s).nCls = s.nCls := rfl
@[simp] theorem interval_minLen (d : Nat) (s : State) : (interval d s).minLen = s.minLen := rfl
@[simp] theorem interval_maxLen (d : Nat) (s : State) : (interval d s).maxLen = s.maxLen := rfl
@[simp] theorem interval_minGap (d : Nat) (s : State) : (interval d s).minGap = s.minGap := rfl
@[simp] theorem interval_maxGap (d : Nat) (s : State) : (interval d s).maxGap = s.maxGap := rfl
@[simp] theorem interval_rxBuf (d : Nat) (s : State) : (interval d s).rxBuf = s.rxBuf := rfl
@[simp] theorem interval_rxIdx (d : Nat) (s : State) : (interval d s).rxIdx = s.rxIdx := rfl
@[simp] theorem interval_txPin (d : Nat) (s : State) : (interval d s).txPin = !s.txPin := rfl
@[simp] theorem interval_serOut (d : Nat) (s : State) : (interval d s).serOut = s.serOut := rfl
@[simp] theorem interval_txTrace (d : Nat) (s : State) : (interval d s).txTrace = s.txTrace ++ [⟨!s.txPin, Memory.read s.pct d⟩] := rfl
@[simp] theorem interval_ie (d : Nat) (s : State) : (interval d s).ie = s.ie := rfl
@[simp] theorem interval_input (d : Nat) (s : State) : (interval d s).input = s.input := rfl
@[simp] theorem interval_choice (d : Nat) (s : State) : (interval d s).choice = s.choice := rfl
@[simp] theorem interval_cfg (d : Nat) (s : State) : (interval d s).cfg = s.cfg := rfl

end Sys2Proof.Machine
end

