-- ==== Sys2Proof/Laws/Memory.lean ====
section
/-! SUPPORT. The laws of the arrays: reading after a write, and that every operation keeps the canonical form. The
reading laws need no canonical form, so they hold in states no run reaches. -/

namespace Sys2Proof.Machine

variable {α : Type} [Inhabited α]

@[simp] theorem Memory.read_nil (i : Nat) : Memory.read ([] : Memory α) i = default := rfl

theorem Memory.read_cons (c : Nat × α) (m : Memory α) (i : Nat) :
    Memory.read (c :: m) i = if c.1 = i then c.2 else Memory.read m i := rfl

theorem Memory.read_erase (m : Memory α) (i j : Nat) :
    Memory.read (Memory.erase m i) j = if j = i then default else Memory.read m j := by
  induction m with
  | nil => simp [Memory.erase]
  | cons c m ih =>
    simp only [Memory.erase, List.filter_cons] at ih ⊢
    by_cases hc : c.1 = i
    · rw [if_neg (by simpa using hc), ih, Memory.read_cons]
      split <;> simp_all
      intro h; omega
    · rw [if_pos (by simpa using hc), Memory.read_cons, Memory.read_cons, ih]
      split <;> simp_all

theorem Memory.read_place (m : Memory α) (i : Nat) (v : α) (h : ∀ c ∈ m, c.1 ≠ i) (j : Nat) :
    Memory.read (Memory.place i v m) j = if j = i then v else Memory.read m j := by
  induction m with
  | nil => simp [Memory.place, Memory.read, eq_comm]
  | cons c m ih =>
    have hc := h c (by simp)
    have ih := ih (fun d hd => h d (by simp [hd]))
    simp only [Memory.place]
    split
    · rw [Memory.read_cons, ih, Memory.read_cons]
      split <;> simp_all
    · rw [Memory.read_cons]
      simp [eq_comm]

variable [DecidableEq α]

/-- What an element reads after a write: the value written there, every other element as before. -/
theorem Memory.read_write (m : Memory α) (i : Nat) (v : α) (j : Nat) :
    Memory.read (Memory.write m i v) j = if j = i then v else Memory.read m j := by
  simp only [Memory.write]
  split
  · next hv => rw [Memory.read_erase, hv]
  · rw [Memory.read_place _ _ _ (by simp [Memory.erase]), Memory.read_erase]
    split <;> simp

@[simp] theorem Memory.read_write_self (m : Memory α) (i : Nat) (v : α) :
    Memory.read (Memory.write m i v) i = v := by simp [Memory.read_write]

theorem Memory.read_write_ne (m : Memory α) {i j : Nat} (v : α) (h : j ≠ i) :
    Memory.read (Memory.write m i v) j = Memory.read m j := by simp [Memory.read_write, h]

/-- What an element reads after consecutive writes. -/
theorem Memory.read_writeList (vs : List α) (m : Memory α) (i j : Nat) :
    Memory.read (Memory.writeList m i vs) j =
      if h : i ≤ j ∧ j - i < vs.length then vs[j - i]'h.2 else Memory.read m j := by
  induction vs generalizing m i with
  | nil => simp [Memory.writeList]
  | cons v vs ih =>
    rw [Memory.writeList, ih, Memory.read_write]
    by_cases hij : j = i
    · subst hij
      simp
    · by_cases hlt : i ≤ j
      · have h1 : j - i = (j - (i + 1)) + 1 := by omega
        by_cases hb : j - (i + 1) < vs.length
        · rw [dif_pos ⟨by omega, hb⟩, dif_pos ⟨hlt, by simp; omega⟩]
          simp [h1]
        · rw [dif_neg (by omega), dif_neg (by simp; omega), if_neg hij]
      · rw [dif_neg (by omega), dif_neg (by omega), if_neg hij]

omit [DecidableEq α] in
@[simp] theorem Memory.slice_length (m : Memory α) (n : Nat) : (Memory.slice m n).length = n := by
  simp [Memory.slice]

omit [DecidableEq α] in
@[simp] theorem Memory.slice_getElem (m : Memory α) (n i : Nat) (h : i < (Memory.slice m n).length) :
    (Memory.slice m n)[i] = Memory.read m i := by simp [Memory.slice]

omit [DecidableEq α] in
/-- Arrays that read alike below `n` have the same first `n` elements. -/
theorem Memory.slice_congr {m m' : Memory α} {n : Nat} (h : ∀ i, i < n → Memory.read m i = Memory.read m' i) :
    Memory.slice m n = Memory.slice m' n := by
  apply List.ext_getElem <;> simp
  exact h

omit [DecidableEq α] in
theorem Memory.slice_succ (m : Memory α) (n : Nat) :
    Memory.slice m (n + 1) = Memory.slice m n ++ [Memory.read m n] := by
  simp [Memory.slice, List.range_succ]

/-! ### The canonical form -/

omit [DecidableEq α] in
theorem Memory.erase_wf {m : Memory α} (h : Memory.wf m) (i : Nat) : Memory.wf (Memory.erase m i) :=
  ⟨h.1.filter _, fun c hc => h.2 c (List.mem_of_mem_filter hc)⟩

omit [Inhabited α] [DecidableEq α] in
theorem Memory.mem_place {i : Nat} {v : α} {m : Memory α} {c : Nat × α} (h : c ∈ Memory.place i v m) :
    c = (i, v) ∨ c ∈ m := by
  induction m with
  | nil => simpa [Memory.place] using h
  | cons d m ih =>
    simp only [Memory.place] at h
    split at h
    · rcases List.mem_cons.1 h with rfl | h
      · simp
      · rcases ih h with h | h <;> simp [h]
    · simpa using h

omit [DecidableEq α] in
theorem Memory.place_wf {m : Memory α} (h : Memory.wf m) (i : Nat) {v : α} (hv : v ≠ default)
    (hi : ∀ c ∈ m, c.1 ≠ i) : Memory.wf (Memory.place i v m) := by
  refine ⟨?_, ?_⟩
  · obtain ⟨hp, -⟩ := h
    induction m with
    | nil => simp [Memory.place]
    | cons d m ih =>
      have hd := List.pairwise_cons.1 hp
      have hdi := hi d (by simp)
      simp only [Memory.place]
      split
      · next hlt =>
        refine List.pairwise_cons.2 ⟨fun c hc => ?_, ih (fun c hc => hi c (by simp [hc])) hd.2⟩
        rcases Memory.mem_place hc with rfl | hc
        · exact hlt
        · exact hd.1 c hc
      · next hlt =>
        refine List.pairwise_cons.2 ⟨fun c hc => ?_, hp⟩
        rcases List.mem_cons.1 hc with rfl | hc
        · show i < c.1; omega
        · have := hd.1 c hc; show i < c.1; omega
  · intro c hc
    rcases Memory.mem_place hc with rfl | hc
    · exact hv
    · exact h.2 c hc

/-- A write keeps the canonical form. -/
theorem Memory.write_wf {m : Memory α} (h : Memory.wf m) (i : Nat) (v : α) : Memory.wf (Memory.write m i v) := by
  simp only [Memory.write]
  split
  · exact Memory.erase_wf h i
  · next hv => exact Memory.place_wf (Memory.erase_wf h i) i hv (by simp [Memory.erase])

/-- Consecutive writes keep the canonical form. -/
theorem Memory.writeList_wf (vs : List α) {m : Memory α} (h : Memory.wf m) (i : Nat) :
    Memory.wf (Memory.writeList m i vs) := by
  induction vs generalizing m i with
  | nil => exact h
  | cons v vs ih => exact ih (Memory.write_wf h i v) (i + 1)

omit [DecidableEq α] in
/-- The empty array, the one of power-on, has the canonical form. -/
theorem Memory.nil_wf : Memory.wf ([] : Memory α) := by simp [Memory.wf]

omit [DecidableEq α] in
/-- An array in canonical form that reads as nothing everywhere lists nothing. -/
theorem Memory.eq_nil_of_blank {m : Memory α} (h : Memory.wf m) (hb : ∀ i, Memory.read m i = default) : m = [] := by
  cases m with
  | nil => rfl
  | cons c m =>
    have := hb c.1
    rw [Memory.read_cons, if_pos rfl] at this
    exact absurd this (h.2 c (by simp))

/-- The arrays of the state after power-on have the canonical form. -/
theorem reset_memories_wf :
    Memory.wf State.reset.train ∧ Memory.wf State.reset.pct ∧ Memory.wf State.reset.rxBuf :=
  ⟨Memory.nil_wf, Memory.nil_wf, Memory.nil_wf⟩

end Sys2Proof.Machine
end

