-- ==== Sys2Proof/Laws/Quantizer.lean ====
section
/-! SUPPORT. What the quantizer, the assembler and EDGE can do, said once. -/

namespace Sys2Proof.Machine

open Sys2Proof.Config

/-- CLASSIFY writes nothing but the table and its count. -/
theorem classify_frame (w : Nat) (s : State) :
    (classify w s).2 = { s with pct := (classify w s).2.pct, nCls := (classify w s).2.nCls } := by
  unfold classify
  split
  · rfl
  · unfold allocate
    split <;> rfl

/-- CLASSIFY's three outcomes: the first allocated entry that matches; a fresh entry; a full table (R143, R144). -/
theorem classify_cases (w : Nat) (s : State) :
    (∃ x, (List.range s.nCls).find? (fun x => matchWidth s.cfg (Memory.read s.pct x) w) = some x ∧
      classify w s = (x, s)) ∨
    ((∀ x, x < s.nCls → matchWidth s.cfg (Memory.read s.pct x) w = false) ∧ s.nCls < nClasses ∧
      classify w s = (s.nCls, { s with pct := Memory.write s.pct s.nCls w, nCls := s.nCls + 1 })) ∨
    ((∀ x, x < s.nCls → matchWidth s.cfg (Memory.read s.pct x) w = false) ∧ nClasses ≤ s.nCls ∧
      classify w s = (s.cfg.overflowClass, s)) := by
  unfold classify
  split
  · next x hx => exact .inl ⟨x, hx, rfl⟩
  · next hn =>
    have hn : ∀ x, x < s.nCls → matchWidth s.cfg (Memory.read s.pct x) w = false := by simpa using hn
    unfold allocate
    split
    · next h => exact .inr (.inl ⟨hn, h, rfl⟩)
    · next h => exact .inr (.inr ⟨hn, Nat.le_of_not_lt h, rfl⟩)

/-- The walk over the train writes nothing but the table and its count. -/
theorem quantizeWalk_frame (ws : List Nat) (i : Nat) (code : List Byte) (s : State) :
    (quantizeWalk ws i code s).2 =
      { s with pct := (quantizeWalk ws i code s).2.pct, nCls := (quantizeWalk ws i code s).2.nCls } := by
  induction ws generalizing i code s with
  | nil => rfl
  | cons w ws ih =>
    simp only [quantizeWalk]
    rw [ih, classify_frame]

/-- QUANTIZE sends some bytes and leaves the table clear; nothing else changes (R140). -/
theorem quantize_frame (n : Nat) (s : State) :
    ∃ bs, quantize n s = { s with pct := [], nCls := 0, serOut := s.serOut ++ bs } := by
  refine ⟨(OutFrame.captured (quantizeWalk (Memory.slice s.train n) 0 [] s).1
    ((allocated (quantizeWalk (Memory.slice s.train n) 0 [] s).2).map (fun c => c * outScale))).encode, ?_⟩
  have hf := quantizeWalk_frame (Memory.slice s.train n) 0 [] s
  simp only [quantize]
  generalize quantizeWalk (Memory.slice s.train n) 0 [] s = r at hf ⊢
  rw [show clearTable (emitCaptured r.1 r.2) =
    { r.2 with pct := [], nCls := 0, serOut := r.2.serOut ++ (OutFrame.captured r.1
      ((allocated r.2).map (fun c => c * outScale))).encode } from rfl]
  generalize (OutFrame.captured r.1 ((allocated r.2).map (fun c => c * outScale))).encode = bs
  rw [hf]

/-- APPEND writes nothing but the train and its index (R122). -/
theorem append_frame (w : Nat) (s : State) :
    append w s = { s with train := (append w s).train, tIdx := (append w s).tIdx } := by
  unfold append
  split <;> rfl

theorem append_tIdx (w : Nat) (s : State) :
    (append w s).tIdx = if s.tIdx < s.cfg.trainCap then s.tIdx + 1 else 0 := by
  unfold append
  split <;> rfl

theorem append_read (w : Nat) (s : State) (i : Nat) :
    Memory.read (append w s).train i =
      if i = s.tIdx ∧ s.tIdx < s.cfg.trainCap then w else Memory.read s.train i := by
  unfold append
  split
  · next h => simp [Memory.read_write, h]
  · next h => simp [h]

theorem append_wf {w : Nat} {s : State} (h : Memory.wf s.train) : Memory.wf (append w s).train := by
  unfold append
  split
  · exact Memory.write_wf h _ _
  · exact h

/-- TERMINATE's three outcomes (R124 to R127). -/
theorem terminate_cases (s : State) :
    ((s.tIdx < s.minLen ∨ s.maxLen < s.tIdx) ∧ terminate s = { s with tIdx := 0 }) ∨
    (s.minLen ≤ s.tIdx ∧ s.tIdx ≤ s.maxLen ∧ s.tIdx ≠ s.rpt ∧ terminate s = { s with rpt := s.tIdx, tIdx := 0 }) ∨
    (s.minLen ≤ s.tIdx ∧ s.tIdx ≤ s.maxLen ∧ s.tIdx = s.rpt ∧
      terminate s =
        { quantize s.tIdx s with rpt := if s.cfg.rptClearOnAccept then 0 else s.rpt, tIdx := 0 }) := by
  unfold terminate
  by_cases hl : lengthOk s.tIdx s = true
  · have hl' : s.minLen ≤ s.tIdx ∧ s.tIdx ≤ s.maxLen := by simpa [lengthOk] using hl
    simp only [hl, if_true]
    by_cases hr : s.tIdx = s.rpt
    · refine .inr (.inr ⟨hl'.1, hl'.2, hr, ?_⟩)
      simp only [hr, if_true]
      obtain ⟨bs, hq⟩ := quantize_frame s.rpt s
      split <;> simp [hq]
    · exact .inr (.inl ⟨hl'.1, hl'.2, hr, by simp [hr]⟩)
  · have hl' : s.tIdx < s.minLen ∨ s.maxLen < s.tIdx := by
      have := hl; simp [lengthOk] at this; omega
    exact .inl ⟨hl', by simp [hl]⟩

/-- MATCH in either mode, as a comparison of numbers (R142). -/
theorem matchWidth_symmetric {p : Params} (h : p.tolMode = .symmetric) (c w : Nat) :
    matchWidth p c w = true ↔ absDiff (c / 10) (w / 10) ≤ 2 := by
  simp only [matchWidth, h, decide_eq_true_eq]

theorem matchWidth_original {p : Params} (h : p.tolMode = .original) (c w : Nat) :
    matchWidth p c w = true ↔ subMod p.wTick (c / 10) (w / 10) ≤ 2 := by
  simp only [matchWidth, h, decide_eq_true_eq]

theorem keeps_iff (w : Nat) : keeps w = true ↔ 8 < w ∧ w < 1600 := by
  simp only [keeps, Bool.and_eq_true, decide_eq_true_eq]

theorem terminates_iff (w : Nat) (s : State) : terminates w s = true ↔ s.minGap < w := by simp [terminates]

/-- ASSEMBLE's outcomes: noise, a plain append, or an append and TERMINATE (R120). -/
theorem assemble_cases (w : Nat) (s : State) :
    ((w ≤ 8 ∨ 1600 ≤ w) ∧ assemble w s = s) ∨
    (8 < w ∧ w < 1600 ∧ w ≤ s.minGap ∧ assemble w s = append w s) ∨
    (8 < w ∧ w < 1600 ∧ s.minGap < w ∧ assemble w s = terminate (append w s)) := by
  have hm : (append w s).minGap = s.minGap := by rw [append_frame]
  unfold assemble
  by_cases hk : keeps w = true
  · have hk' := (keeps_iff w).1 hk
    simp only [hk, if_true]
    by_cases ht : terminates w (append w s) = true
    · have := (terminates_iff _ _).1 ht
      exact .inr (.inr ⟨hk'.1, hk'.2, by omega, by simp [ht]⟩)
    · have := mt (terminates_iff _ _).2 ht
      exact .inr (.inl ⟨hk'.1, hk'.2, by omega, by simp [ht]⟩)
  · have := mt (keeps_iff w).2 hk
    exact .inl ⟨by omega, by simp [hk]⟩

/-- EDGE runs ASSEMBLE on the width it read and the state with `TICK` cleared and `IE` down, and puts `IE` up. -/
theorem execEdge_eq (s : State) :
    execEdge s = .next (leaveHandler (assemble s.tick { s with tick := 0, ie := false })) := rfl

end Sys2Proof.Machine
end

