-- ==== Sys2Proof/Laws/Transmit.lean ====
section
/-! SUPPORT. What the transmit sequencer and the TRANSMIT frame can do, said once. -/

namespace Sys2Proof.Machine

open Sys2Proof.Config

/-- SYM moves the pin and lengthens the waveform; nothing else changes (R212). -/
theorem symbol_frame (d : Nat) (s : State) :
    ∃ gs, symbol d s = { s with txPin := (symbol d s).txPin, txTrace := s.txTrace ++ gs } := by
  unfold symbol
  split
  · exact ⟨[⟨!s.txPin, Memory.read s.pct 0⟩, ⟨s.txPin, Memory.read s.pct d⟩], by simp [interval, hold, toggle]⟩
  · exact ⟨[_], rfl⟩

theorem replayOnce_frame (code : List Nat) (s : State) :
    ∃ gs, replayOnce code s = { s with txPin := (replayOnce code s).txPin, txTrace := s.txTrace ++ gs } := by
  unfold replayOnce
  induction code generalizing s with
  | nil => exact ⟨[], by simp⟩
  | cons d ds ih =>
    obtain ⟨gs, h⟩ := symbol_frame d s
    obtain ⟨hs, h'⟩ := ih (symbol d s)
    refine ⟨gs ++ hs, ?_⟩
    rw [List.foldl_cons, h', h]
    simp

theorem replayLoop_frame (code : List Nat) (r : Nat) (s : State) :
    ∃ gs, replayLoop code r s = { s with txPin := (replayLoop code r s).txPin, txTrace := s.txTrace ++ gs } := by
  induction r generalizing s with
  | zero => exact ⟨[], by simp [replayLoop]⟩
  | succ r ih =>
    obtain ⟨gs, h⟩ := replayOnce_frame code s
    obtain ⟨hs, h'⟩ := ih (replayOnce code s)
    refine ⟨gs ++ hs, ?_⟩
    rw [replayLoop, h', h]
    simp

/-- A replay lengthens the waveform, forces the pin low and clears the table; nothing else changes (R210). -/
theorem replay_frame (code : List Nat) (r : Nat) (s : State) :
    ∃ gs, replay code r s = { s with txPin := false, pct := [], nCls := 0, txTrace := s.txTrace ++ gs } := by
  obtain ⟨gs, h⟩ := replayLoop_frame code r s
  refine ⟨gs, ?_⟩
  unfold replay
  rw [h]
  rfl

/-- TRANSMIT's outcomes: a refusal, or the replay of its parsed operands (R189). -/
theorem execTransmit_cases (code widths rep : List Byte) (s : State) :
    (∃ r, execTransmit code widths rep s = .refused r) ∨
    (∃ ds ws r, parseCode code = .ok ds ∧ parseWidths s.cfg widths = .ok ws ∧ parseRepeat s.cfg rep = .ok r ∧
      execTransmit code widths rep s = .next (replay ds r (loadTable ws s))) := by
  unfold execTransmit
  split
  · exact .inl ⟨_, rfl⟩
  · next ds hd =>
    split
    · exact .inl ⟨_, rfl⟩
    · next ws hw =>
      split
      · exact .inl ⟨_, rfl⟩
      · next r hr => exact .inr ⟨ds, ws, r, hd, hw, hr, rfl⟩

/-- Where TRANSMIT completes it lengthens the waveform and leaves the pin low and the table clear. -/
theorem execTransmit_frame {code widths rep : List Byte} {s t : State}
    (h : execTransmit code widths rep s = .next t) :
    ∃ gs, t = { s with txPin := false, pct := [], nCls := 0, txTrace := s.txTrace ++ gs } := by
  rcases execTransmit_cases code widths rep s with ⟨r, hr⟩ | ⟨ds, ws, r, -, -, -, he⟩
  · rw [hr] at h; cases h
  · rw [he] at h
    cases h
    obtain ⟨gs, hg⟩ := replay_frame ds r (loadTable ws s)
    exact ⟨gs, hg⟩

end Sys2Proof.Machine
end

