-- ==== Sys2Proof/Laws/Codec.lean ====
section
/-! SUPPORT. What TUNE, a decoded frame, RXBYTE and a step can do, said once. -/

namespace Sys2Proof.Machine

open Sys2Proof.Config

theorem assignFields_frame (i : Nat) (vs : List (Option Nat)) (s : State) :
    assignFields i vs s =
      { s with
        minLen := (assignFields i vs s).minLen, maxLen := (assignFields i vs s).maxLen
        minGap := (assignFields i vs s).minGap, maxGap := (assignFields i vs s).maxGap } := by
  induction vs generalizing i s with
  | nil => rfl
  | cons v vs ih =>
    rw [assignFields, ih]
    unfold assignField
    split <;> rfl

/-- TUNE's outcomes: nothing in the fixed variant; a refusal; the assignments and the acknowledgment (R183, R187). -/
theorem execTune_cases (text : List Byte) (s : State) :
    (s.cfg.tunable = false ∧ execTune text s = .next s) ∨
    (s.cfg.tunable = true ∧ ∃ r, parseTune s.cfg text = .error r ∧ execTune text s = .refused r) ∨
    (s.cfg.tunable = true ∧ ∃ vs, parseTune s.cfg text = .ok vs ∧
      execTune text s = .next (emitTuneAck (assignFields 0 vs s))) := by
  unfold execTune
  cases ht : s.cfg.tunable with
  | false => exact .inl ⟨rfl, rfl⟩
  | true =>
    refine .inr ?_
    cases hp : parseTune s.cfg text with
    | error r => exact .inl ⟨rfl, r, rfl, rfl⟩
    | ok vs => exact .inr ⟨rfl, vs, rfl, rfl⟩

/-- Where TUNE completes it writes the tuning registers, where `TUNABLE` is true, and lengthens `SER_OUT`. -/
theorem execTune_frame {text : List Byte} {s t : State} (h : execTune text s = .next t) :
    ∃ bs, t = { s with
      minLen := t.minLen, maxLen := t.maxLen, minGap := t.minGap, maxGap := t.maxGap, serOut := s.serOut ++ bs } ∧
      (s.cfg.tunable = false → t = s) := by
  rcases execTune_cases text s with ⟨ht, he⟩ | ⟨ht, r, -, he⟩ | ⟨ht, vs, -, he⟩
  · rw [he] at h; cases h
    exact ⟨[], by simp, fun _ => rfl⟩
  · rw [he] at h; cases h
  · rw [he] at h; cases h
    refine ⟨(emitTuneAck (assignFields 0 vs s)).serOut.drop s.serOut.length, ?_, by simp [ht]⟩
    have hf := assignFields_frame 0 vs s
    have hs : (emitTuneAck (assignFields 0 vs s)).serOut =
        s.serOut ++ (emitTuneAck (assignFields 0 vs s)).serOut.drop s.serOut.length := by
      rw [emitTuneAck_serOut, hf]
      simp
    rw [← hs]
    conv_lhs => rw [emitTuneAck, hf]
    rw [hf]
    rfl

/-- What a decoded frame leaves as it was, whichever operation it runs. -/
structure FrameKeeps (s t : State) : Prop where
  tick : t.tick = s.tick
  hbCnt : t.hbCnt = s.hbCnt
  train : t.train = s.train
  tIdx : t.tIdx = s.tIdx
  rpt : t.rpt = s.rpt
  rxBuf : t.rxBuf = s.rxBuf
  rxIdx : t.rxIdx = s.rxIdx
  ie : t.ie = s.ie
  input : t.input = s.input
  choice : t.choice = s.choice
  cfg : t.cfg = s.cfg
  serOut : ∃ bs, t.serOut = s.serOut ++ bs
  txTrace : ∃ gs, t.txTrace = s.txTrace ++ gs

theorem runFrame_keeps {f : Frame} {s t : State} (h : runFrame f s = .next t) : FrameKeeps s t := by
  cases f with
  | tune text =>
    obtain ⟨bs, ht, -⟩ := execTune_frame h
    rw [ht]
    exact ⟨rfl, rfl, rfl, rfl, rfl, rfl, rfl, rfl, rfl, rfl, rfl, ⟨bs, rfl⟩, ⟨[], by simp⟩⟩
  | transmit code widths rep =>
    obtain ⟨gs, ht⟩ := execTransmit_frame h
    rw [ht]
    exact ⟨rfl, rfl, rfl, rfl, rfl, rfl, rfl, rfl, rfl, rfl, rfl, ⟨[], by simp⟩, ⟨gs, rfl⟩⟩
  | ignored =>
    cases h
    exact ⟨rfl, rfl, rfl, rfl, rfl, rfl, rfl, rfl, rfl, rfl, rfl, ⟨[], by simp⟩, ⟨[], by simp⟩⟩

theorem runFrame_noFault (f : Frame) (s : State) (e : Fault) : runFrame f s ≠ .fault e := by
  cases f with
  | tune text =>
    rcases execTune_cases text s with ⟨-, he⟩ | ⟨-, r, -, he⟩ | ⟨-, vs, -, he⟩ <;> simp [runFrame, he]
  | transmit code widths rep =>
    rcases execTransmit_cases code widths rep s with ⟨r, he⟩ | ⟨ds, ws, r, -, -, -, he⟩ <;> simp [runFrame, he]
  | ignored => simp [runFrame, execIgnored]

/-- RXBYTE's outcomes (R171): an index out of range; an ordinary byte; the byte that fills the buffer; the
terminator. -/
theorem execRxbyte_cases (b : Byte) (s : State) :
    (s.cfg.rxBufCap ≤ s.rxIdx ∧ execRxbyte b s = .fault (.indexOutOfRange .rxBuf s.rxIdx)) ∨
    (s.rxIdx < s.cfg.rxBufCap ∧ b ≠ term ∧
      execRxbyte b s = .next { s with
        rxBuf := Memory.write s.rxBuf s.rxIdx b, ie := true
        rxIdx := if s.rxIdx + 1 = s.cfg.rxBufCap then 0 else s.rxIdx + 1 }) ∨
    (s.rxIdx < s.cfg.rxBufCap ∧ b = term ∧
      execRxbyte b s =
        onNext (executeFrame (Memory.slice (Memory.write s.rxBuf s.rxIdx b) s.rxIdx)
          { s with ie := false, rxBuf := Memory.write s.rxBuf s.rxIdx b, rxIdx := s.rxIdx + 1 })
          (fun t => { t with rxIdx := 0, ie := true })) := by
  unfold execRxbyte
  by_cases hlt : s.rxIdx < s.cfg.rxBufCap
  · rw [if_pos hlt]
    by_cases hb : b = term
    · exact .inr (.inr ⟨hlt, hb, by rw [if_pos hb]; rfl⟩)
    · refine .inr (.inl ⟨hlt, hb, ?_⟩)
      rw [if_neg hb]
      by_cases hf : s.rxIdx + 1 = s.cfg.rxBufCap
      · simp only [hf, if_true]
        rw [if_pos (by exact hf)]
        rfl
      · simp only [hf, if_false]
        rw [if_neg (by exact hf)]
        rfl
  · exact .inl ⟨Nat.le_of_not_lt hlt, by rw [if_neg hlt]⟩

/-- The bytes before the terminator read as before it was stored. -/
theorem slice_write_at (m : Memory Byte) (n : Nat) (b : Byte) :
    Memory.slice (Memory.write m n b) n = Memory.slice m n :=
  Memory.slice_congr fun _ hi => Memory.read_write_ne m b (Nat.ne_of_lt hi)

/-- EXECUTE_FRAME completes only by running a decoded frame. -/
theorem executeFrame_next {body : List Byte} {s t : State} (h : executeFrame body s = .next t) :
    ∃ f, decodeFrame body = .ok f ∧ runFrame f s = .next t := by
  unfold executeFrame at h
  split at h
  · next f hf => exact ⟨f, hf, h⟩
  · cases h

/-- What a step takes (R71, R236): nothing, or one event with the rest of the deliveries left. Only the deliveries and
the counter of free choices change. -/
theorem takeEvent_frame (s : State) :
    (takeEvent s).2 = { s with input := (takeEvent s).2.input, choice := (takeEvent s).2.choice } := by
  unfold takeEvent
  split
  · rfl
  · split
    · rfl
    · split <;> rfl

/-- The event a vector decodes to is one of the four (R71). -/
theorem decodeEvent_cases {v : EventVector} {b : Byte} {i : Instr} (h : decodeEvent v b = .ok i) :
    i = .reset ∨ i = .tick ∨ i = .edge ∨ i = .rxbyte b := by
  unfold decodeEvent at h
  split at h
  · cases h; simp
  split at h
  · cases h; simp
  split at h
  · cases h; simp
  split at h
  · cases h; simp
  split at h <;> cases h

/-- A step takes nothing or one of the four events (R5). -/
theorem takeEvent_cases (s : State) :
    (takeEvent s).1 = none ∨ (takeEvent s).1 = some .reset ∨ (takeEvent s).1 = some .tick ∨
      (takeEvent s).1 = some .edge ∨ ∃ b, (takeEvent s).1 = some (.rxbyte b) := by
  have key : ∀ v b, (decodeEvent v b).toOption = none ∨ (decodeEvent v b).toOption = some .reset ∨
      (decodeEvent v b).toOption = some .tick ∨ (decodeEvent v b).toOption = some .edge ∨
      ∃ c, (decodeEvent v b).toOption = some (.rxbyte c) := by
    intro v b
    cases h : decodeEvent v b with
    | error e => simp [Except.toOption]
    | ok i => rcases decodeEvent_cases h with rfl | rfl | rfl | rfl <;> simp [Except.toOption]
  unfold takeEvent
  split
  · simp
  · split
    · dsimp only; exact key _ _
    · split
      · simp
      · dsimp only; exact key _ _
      · dsimp only; exact key _ _

/-- A step is the taking of an event and its handler. -/
theorem step_of_takeEvent {s s' : State} {i : Instr} (h : takeEvent s = (some i, s')) : step s = exec i s' := by
  unfold step
  rw [h]

theorem step_of_noEvent {s s' : State} (h : takeEvent s = (none, s')) : step s = .next s' := by
  unfold step
  rw [h]

end Sys2Proof.Machine
end

