-- ==== Sys2Proof/Laws/PerInstr.lean ====
section
/-! SUPPORT. A fact about every operation as syntax, one lemma per constructor: what the encoder gives for an inbound
frame ends with the terminator, and the frame of a well-formed operation fits the receive buffer (30_encoding.md
R72). -/

namespace Sys2Proof

open Sys2Proof.Config

/-- R72 of one operation: an inbound frame ends with `@`, and a well-formed one fits the receive buffer. -/
def Laws.FrameFits.Statement (i : Instr) : Prop :=
  i.format = .frmIn → (encode i).getLast? = some term ∧
    ∀ p : Params, i.wellFormed p = true → (encode i).length ≤ p.rxBufCap

theorem Laws.FrameFits.reset : Laws.FrameFits.Statement .reset := by
  intro h; cases h

theorem Laws.FrameFits.tick : Laws.FrameFits.Statement .tick := by
  intro h; cases h

theorem Laws.FrameFits.edge : Laws.FrameFits.Statement .edge := by
  intro h; cases h

theorem Laws.FrameFits.rxbyte (b : Byte) : Laws.FrameFits.Statement (.rxbyte b) := by
  intro h; cases h

theorem Laws.FrameFits.tune (text : List Byte) : Laws.FrameFits.Statement (.tune text) := by
  refine fun _ => ⟨by simp [encode, Frame.encode, List.getLast?_cons, List.getLast?_append], fun p hp => ?_⟩
  have : text.length + 3 ≤ p.rxBufCap := by simp [Instr.wellFormed] at hp; exact hp.2
  simp [encode, Frame.encode]
  omega

theorem Laws.FrameFits.transmit (code widths rep : List Byte) :
    Laws.FrameFits.Statement (.transmit code widths rep) := by
  refine fun _ => ⟨by simp [encode, Frame.encode, List.getLast?_cons, List.getLast?_append], fun p hp => ?_⟩
  have : code.length + widths.length + rep.length + 9 ≤ p.rxBufCap := by
    simp [Instr.wellFormed] at hp; exact hp.2
  simp [encode, Frame.encode]
  omega

theorem Laws.FrameFits.ignored : Laws.FrameFits.Statement .ignored :=
  fun _ => ⟨rfl, fun p hp => by simpa [Instr.wellFormed, encode, Frame.encode] using hp⟩

theorem Laws.FrameFits.sym (d : BitVec 4) : Laws.FrameFits.Statement (.sym d) := by
  intro h; cases h

theorem Laws.FrameFits.captured (code : List Byte) : Laws.FrameFits.Statement (.captured code) := by
  intro h; cases h

theorem Laws.FrameFits.tuneAck : Laws.FrameFits.Statement .tuneAck := by
  intro h; cases h

theorem Laws.FrameFits.heartbeat : Laws.FrameFits.Statement .heartbeat := by
  intro h; cases h

end Sys2Proof
end

