-- ==== Sys2Proof/Tests/Slice0.lean ====
section
/-! SUPPORT. Tests of the model against the vectors of spec/95_test_vectors.md and the examples of the rules, one step
each; ill-formed operations for every check of `Instr.wellFormed`; decoded words written out from 30_encoding.md; and
for every obligation with hypotheses a witness that meets them. -/

namespace Sys2Proof.Tests

open Sys2Proof.Machine Sys2Proof.Config

/-! ### Helpers -/

/-- The bytes of an ASCII text. -/
def bytes (t : String) : List Byte := t.toList.map (fun c => BitVec.ofNat 8 c.toNat)

/-- Small parameters: a train of 4, a heartbeat every 5 ticks, a receive buffer of 64, defaults (2, 10, 800, 5000). -/
def params : Params where
  trainCap := 4
  tunable := true
  txInsertMark := false
  defMinLen := 2
  defMaxLen := 10
  defMinGap := 800
  defMaxGap := 5000
  heartbeatTicks := 5
  tolMode := .symmetric
  rptClearOnAccept := true
  wTick := 16
  wHb := 32
  wCfg := 32
  wPct := 16
  wRep := 8
  rxBufCap := 64
  tuneGapDiv := 1
  overflowClass := 9

/-- The state after reset under those parameters. -/
def start : State :=
  { State.reset with cfg := params, minLen := 2, maxLen := 10, minGap := 800, maxGap := 5000 }

/-- A train in progress and the width that an EDGE now reads. -/
def withTrain (ws : List Nat) (w : Nat) : State :=
  { start with train := Memory.writeList [] 0 ws, tIdx := ws.length, tick := w }

/-- A frame body in the receive buffer, its terminator not yet received. -/
def withBody (t : String) : State :=
  { start with rxBuf := Memory.writeList [] 0 (bytes t), rxIdx := (bytes t).length }

/-- A delivered request. -/
def asked (v : EventVector) (b : Byte) (s : State) : State := { s with input := [⟨v, b⟩] }

/-- One field of the next state, where there is one. -/
def after {α : Type} (o : Host.Outcome State Fault Refusal) (f : State → α) : Option α := (nextState? o).map f

/-- The refusal of an outcome, where it is one. -/
def refusal? : Host.Outcome State Fault Refusal → Option Refusal
  | .next _ => none
  | .fault _ => none
  | .refused r => some r

/-! ### WellFormed: an ill-formed operation for every check -/

theorem test_wf_tune : (Instr.tune (bytes "50,500,,5000")).wellFormed params = true := by decide
theorem test_illformed_tune_five_fields : (Instr.tune (bytes "1,2,3,4,5")).wellFormed params = false := by decide
theorem test_illformed_tune_bad_field : (Instr.tune (bytes "1,2x")).wellFormed params = false := by decide
theorem test_illformed_tune_too_large : (Instr.tune (bytes "4294967296")).wellFormed params = false := by decide
theorem test_illformed_tune_too_long :
    (Instr.tune (bytes "7")).wellFormed { params with rxBufCap := 3 } = false := by decide
theorem test_wf_transmit : (Instr.transmit (bytes "102") (bytes "100,200") (bytes "3")).wellFormed params = true := by
  decide
theorem test_illformed_transmit_code :
    (Instr.transmit (bytes "1a") (bytes "10") (bytes "1")).wellFormed params = false := by decide
theorem test_illformed_transmit_empty_width :
    (Instr.transmit (bytes "1") (bytes "10,,20") (bytes "1")).wellFormed params = false := by decide
theorem test_illformed_transmit_eleven_widths :
    (Instr.transmit (bytes "1") (bytes "1,2,3,4,5,6,7,8,9,10,11") (bytes "1")).wellFormed params = false := by decide
theorem test_illformed_transmit_width_too_large :
    (Instr.transmit (bytes "1") (bytes "65536") (bytes "1")).wellFormed params = false := by decide
theorem test_illformed_transmit_repeat :
    (Instr.transmit (bytes "1") (bytes "10") (bytes "256")).wellFormed params = false := by decide
theorem test_illformed_transmit_too_long :
    (Instr.transmit (bytes "1") (bytes "10") (bytes "1")).wellFormed { params with rxBufCap := 12 } = false := by
  decide
theorem test_illformed_ignored_no_room : Instr.ignored.wellFormed { params with rxBufCap := 0 } = false := by decide
theorem test_illformed_sym : (Instr.sym 10).wellFormed params = false := by decide
theorem test_illformed_captured : (Instr.captured (bytes "1x")).wellFormed params = false := by decide

/-! ### Decoding: words written out from 30_encoding.md -/

/-- R71: vector `1000`. -/
theorem test_decode_reset : decode .evt [0b00001000] = .ok .reset := rfl
/-- R71: vector `0001`. -/
theorem test_decode_tick : decode .evt [0b00000001] = .ok .tick := rfl
/-- R71: vector `0010`. -/
theorem test_decode_edge : decode .evt [0b00000010] = .ok .edge := rfl
/-- R71: vector `0100` with the byte `s`. -/
theorem test_decode_rxbyte : decode .evt [0b00000100, 0x73] = .ok (.rxbyte 0x73) := rfl
/-- R71: two requests at once are not one event. -/
theorem test_decode_two_events : decodeEvent 0b0011#4 0 = .error .severalEvents := rfl
/-- R71: the vector `0000` is no event. -/
theorem test_decode_no_event : decodeEvent 0b0000#4 0 = .error .noEvent := rfl
/-- E1's frame, in the bytes that vector lists. -/
theorem test_decode_tune :
    decode .frmIn [0x73, 0x3A, 0x35, 0x30, 0x2C, 0x35, 0x30, 0x30, 0x2C, 0x38, 0x30, 0x30, 0x2C, 0x35, 0x30, 0x30,
      0x30, 0x40] =
      .ok (.tune [0x35, 0x30, 0x2C, 0x35, 0x30, 0x30, 0x2C, 0x38, 0x30, 0x30, 0x2C, 0x35, 0x30, 0x30, 0x30]) := rfl
/-- PG2's frame, in the bytes that program lists. -/
theorem test_decode_transmit :
    decode .frmIn [0x63, 0x3A, 0x31, 0x30, 0x32, 0x3B, 0x70, 0x3A, 0x31, 0x30, 0x30, 0x2C, 0x32, 0x30, 0x30, 0x3B,
      0x72, 0x3A, 0x33, 0x40] =
      .ok (.transmit [0x31, 0x30, 0x32] [0x31, 0x30, 0x30, 0x2C, 0x32, 0x30, 0x30] [0x33]) := rfl
/-- E2's frame: no `r:`. -/
theorem test_decode_ignored :
    decode .frmIn [0x63, 0x3A, 0x31, 0x30, 0x32, 0x3B, 0x70, 0x3A, 0x31, 0x30, 0x30, 0x2C, 0x32, 0x30, 0x30, 0x40] =
      .ok .ignored := rfl
/-- R80: pattern `0011dddd`. -/
theorem test_decode_sym : decode .sym [0b00111001] = .ok (.sym 9) := rfl
/-- R80: 0x3A is no symbol. -/
theorem test_decode_no_sym : decode .sym [0b00111010] = .error .notSymbol := rfl
/-- R77: QV4's frame. -/
theorem test_decode_captured : decode .frmOut (bytes "c:1;p:300,900@") = .ok (.captured (bytes "1")) := rfl
/-- R78: E1's answer. -/
theorem test_decode_tune_ack :
    (decodeOut (bytes "v:50,500,8000,50000,1,8,1600@")).toOption = some (.tuneAck 50 500 8000 50000, []) := by
  decide +kernel
/-- R79: the single byte 0x0A. -/
theorem test_decode_heartbeat : decode .frmOut [0b00001010] = .ok .heartbeat := rfl
/-- R173's example: the first `s:` wins over the fields before it. -/
theorem test_decode_tune_wins : decode .frmIn (bytes "c:1;p:10;r:1s:5@") = .ok (.tune (bytes "5")) := rfl
/-- U3: `c:` twice in a frame that has all three. -/
theorem test_decode_duplicate : decode .frmIn (bytes "c:1;c:2;p:10;r:1@") = .error .duplicateMarker := rfl

/-- The opcode table's words, as the host numbers them. -/
theorem test_table_words :
    decodeTableWord 8 0x8 = some .reset ∧ decodeTableWord 8 0x1 = some .tick ∧ decodeTableWord 8 0x2 = some .edge ∧
      decodeTableWord 8 0x4 = some (.rxbyte 0) ∧ decodeTableWord 16 0x733A = some (.tune []) ∧
      decodeTableWord 8 0x30 = some (.sym 0) ∧ decodeTableWord 16 0x633A = some (.captured []) ∧
      decodeTableWord 16 0x763A = some .tuneAck ∧ decodeTableWord 8 0x0A = some .heartbeat ∧
      decodeTableWord 0 0 = some .ignored ∧
      decodeTableWord 48 (0x633A + 0x703A * 65536 + 0x723A * 4294967296) =
        some (.transmit [] (bytes "0") (bytes "0")) := by decide

/-- What `withFetchWord` arranges runs at the next step: a TUNE that sets nothing is acknowledged (CV4). -/
theorem test_fetch_tune :
    after (step (start.withFetchWord 16 0x733A)) (fun t => t.serOut) = some (bytes "v:2,10,8000,50000,1,8,1600@") := by
  decide +kernel

/-! ### One step of each operation -/

/-- R260: counters, indices and the pin at 0, the tuning registers at the parameters. -/
theorem test_reset :
    after (exec .reset { withTrain [30] 7 with minGap := 3, txPin := true, ie := false })
      (fun t => (t.tick, t.tIdx, t.minGap, t.txPin, t.ie)) = some (0, 0, 800, false, true) := by decide

/-- T1, with a heartbeat period of 100000. -/
theorem test_tick :
    after (exec .tick { start with tick := 41, hbCnt := 7, cfg := { params with heartbeatTicks := 100000 } })
      (fun t => (t.tick, t.hbCnt, t.serOut)) = some (42, 8, []) := by decide

/-- T2 and T3: the counter wraps, the heartbeat goes out. -/
theorem test_tick_wraps :
    after (exec .tick { start with tick := 65535, hbCnt := 4 }) (fun t => (t.tick, t.hbCnt, t.serOut)) =
      some (0, 0, [0x0A]) := by decide

/-- F5 and F6: a width equal to MINGAP ends nothing, one more ends the train. -/
theorem test_edge_terminator :
    after (exec .edge (withTrain [30] 800)) (fun t => (t.tick, t.tIdx, t.rpt)) = some (0, 2, 0) ∧
      after (exec .edge (withTrain [30] 801)) (fun t => (t.tick, t.tIdx, t.rpt)) = some (0, 0, 2) := by decide

/-- F15: a second train of exactly TRAIN_CAP widths is sent. -/
theorem test_edge_sends :
    after (exec .edge { withTrain [30, 90, 30] 900 with rpt := 4 }) (fun t => (t.rpt, t.nCls, t.serOut)) =
      some (0, 0, bytes "c:12;p:300,900,9000@") := by decide +kernel

/-- R171: an ordinary byte is stored; the byte that fills the buffer empties it. -/
theorem test_rxbyte :
    after (exec (.rxbyte 0x73) start) (fun t => (t.rxIdx, Memory.read t.rxBuf 0)) = some (1, 0x73) ∧
      after (exec (.rxbyte 0x73) { start with rxIdx := 63 }) (fun t => t.rxIdx) = some 0 := by decide

/-- CV15: the operand text of `s:5,6s:7@` breaks its grammar. -/
theorem test_rxbyte_refused : refusal? (exec (.rxbyte 0x40) (withBody "s:5,6s:7")) = some .badNumber := by decide

/-- E1. -/
theorem test_tune :
    after (exec (.tune (bytes "50,500,800,5000")) start)
      (fun t => (t.minLen, t.maxLen, t.minGap, t.maxGap, t.serOut)) =
      some (50, 500, 800, 5000, bytes "v:50,500,8000,50000,1,8,1600@") := by decide +kernel

/-- CV10: the printed gap is the product modulo 2^32; fields 0 and 1 are absent. -/
theorem test_tune_wraps :
    after (exec (.tune (bytes ",,429496730,429496729")) { start with minLen := 1, maxLen := 2 })
      (fun t => t.serOut) = some (bytes "v:1,2,4,4294967290,1,8,1600@") := by decide +kernel

/-- X12: the second repeat of a code of odd length has inverted levels. -/
theorem test_transmit :
    after (exec (.transmit (bytes "101") (bytes "50,70") (bytes "2")) start)
      (fun t => (t.txPin, t.nCls, t.txTrace.map (fun g => (g.level, g.duration)))) =
      some (false, 0, [(true, 70), (false, 50), (true, 70), (false, 70), (true, 50), (false, 70)]) := by decide

/-- X3, with the class-0 interval. -/
theorem test_transmit_mark :
    after (exec (.transmit (bytes "102") (bytes "100,200,300") (bytes "1"))
        { start with cfg := { params with txInsertMark := true } })
      (fun t => t.txTrace.map (fun g => (g.level, g.duration))) =
      some [(true, 100), (false, 200), (true, 100), (false, 100), (true, 100), (false, 300)] := by decide

/-- E2. -/
theorem test_ignored :
    after (exec (.rxbyte 0x40) (withBody "c:102;p:100,200")) (fun t => (t.rxIdx, t.serOut, t.txTrace.length)) =
      some (0, [], 0) := by decide

/-- R212's example. -/
theorem test_sym :
    after (exec (.sym 1) { start with pct := [(0, 300), (1, 900)], nCls := 2 })
      (fun t => (t.txPin, t.txTrace.map (fun g => (g.level, g.duration)))) = some (true, [(true, 900)]) := by decide

/-- R148's example. -/
theorem test_captured :
    after (exec (.captured (bytes "112")) { start with pct := [(0, 30), (1, 90), (2, 900)], nCls := 3 })
      (fun t => t.serOut) = some (bytes "c:112;p:300,900,9000@") := by decide +kernel

/-- CV2's answer, from the registers it leaves. -/
theorem test_tune_ack :
    after (exec .tuneAck { start with minLen := 60, maxLen := 2, minGap := 3, maxGap := 4 }) (fun t => t.serOut) =
      some (bytes "v:60,2,30,40,1,8,1600@") := by decide +kernel

/-- R79, and R101's restart of the count. -/
theorem test_heartbeat :
    after (exec .heartbeat { start with hbCnt := 5 }) (fun t => (t.hbCnt, t.serOut)) = some (0, [0x0A]) := by decide

/-- QV16: a full table; an old class still matches, a new width takes OVERFLOW_CLASS. -/
theorem test_quantize_full :
    (quantize 14 { start with
      train := Memory.writeList [] 0 [10, 40, 70, 100, 130, 160, 190, 220, 250, 280, 500, 10, 500, 700] }).serOut =
      bytes "c:1357909;p:100,400,700,1000,1300,1600,1900,2200,2500,2800@" := by decide +kernel

/-- M3 and M7: the two modes differ on a sample above its class. -/
theorem test_match :
    matchWidth params 30 59 = true ∧ matchWidth { params with tolMode := .original } 30 59 = false ∧
      matchWidth params 10 39 = true ∧ matchWidth { params with tolMode := .original } 39 10 = true := by decide

/-- R236: RESET overrides an EDGE requested with it. -/
theorem test_reset_overrides :
    after (step (asked 0b1010#4 0 (withTrain [30] 35))) (fun t => (t.tIdx, t.input.length)) = some (0, 0) := by decide

/-! ### Witnesses: the hypotheses of the obligations can be met -/

theorem test_witness_HeartbeatIsIndependent :
    (∃ s : State, s.hbCnt + 1 = s.cfg.heartbeatTicks) ∧ (∃ s : State, s.hbCnt + 1 ≠ s.cfg.heartbeatTicks) ∧
      ∃ s t : State, step s = .next t ∧ (takeEvent s).1 ≠ some .tick ∧ (takeEvent s).1 ≠ some .reset :=
  ⟨⟨{ start with hbCnt := 4 }, by decide⟩, ⟨start, by decide⟩, asked 0b0010#4 0 start, _, rfl, by decide, by decide⟩

theorem test_witness_TicksAccumulateAndBeat :
    ∃ (n : Nat) (s : State), n = 12 ∧ s.ie = true ∧ s.tick < 2 ^ s.cfg.wTick ∧ s.hbCnt < s.cfg.heartbeatTicks :=
  ⟨12, { start with tick := 65530, hbCnt := 3 }, by decide⟩

theorem test_witness_EdgeFiltersNoise :
    (∃ s : State, s.tick = 8 ∧ ¬ (9 ≤ s.tick ∧ s.tick ≤ 1599)) ∧
      (∃ s : State, s.tick = 1600 ∧ ¬ (9 ≤ s.tick ∧ s.tick ≤ 1599)) ∧
      (∃ s : State, s.tick = 9 ∧ (9 ≤ s.tick ∧ s.tick ≤ 1599) ∧ s.tick ≤ s.minGap ∧ s.tIdx < s.cfg.trainCap) ∧
      ∃ s : State, s.tick = 1599 ∧ (9 ≤ s.tick ∧ s.tick ≤ 1599) ∧ s.tick ≤ s.minGap ∧ s.tIdx < s.cfg.trainCap :=
  ⟨⟨withTrain [] 8, by decide⟩, ⟨withTrain [] 1600, by decide⟩, ⟨withTrain [30] 9, by decide⟩,
    { withTrain [30] 1599 with minGap := 1599 }, by decide⟩

/-- One state for each branch: noise at both bounds, a plain append, a full train, an illegal length, an unconfirmed
and a confirmed candidate. -/
theorem test_witness_EdgeRunsTheAssembler :
    (∃ s : State, s.nCls = 0 ∧ (∀ k, Memory.read s.pct k = 0) ∧ s.tick = 8) ∧
      (∃ s : State, s.nCls = 0 ∧ (∀ k, Memory.read s.pct k = 0) ∧ s.tick = 1600) ∧
      (∃ s : State, s.nCls = 0 ∧ (∀ k, Memory.read s.pct k = 0) ∧ s.tick = 9 ∧ s.tIdx + 1 = s.cfg.trainCap) ∧
      (∃ s : State, s.nCls = 0 ∧ (∀ k, Memory.read s.pct k = 0) ∧ s.tick = s.minGap ∧ s.tick = 800 ∧
        s.tIdx = s.cfg.trainCap) ∧
      (∃ s : State, s.nCls = 0 ∧ (∀ k, Memory.read s.pct k = 0) ∧ s.tick = s.minGap + 1 ∧ s.tick = 801 ∧
        closedLength s + 1 = s.minLen) ∧
      (∃ s : State, s.nCls = 0 ∧ (∀ k, Memory.read s.pct k = 0) ∧ s.tick = 1599 ∧ s.minGap < s.tick ∧
        closedLength s = s.minLen ∧ closedLength s ≤ s.maxLen ∧ closedLength s ≠ s.rpt) ∧
      ∃ s : State, s.nCls = 0 ∧ (∀ k, Memory.read s.pct k = 0) ∧ s.tick = 900 ∧ s.minGap < s.tick ∧
        s.minLen ≤ closedLength s ∧ closedLength s = s.maxLen ∧ closedLength s = s.rpt :=
  ⟨⟨withTrain [] 8, rfl, fun _ => rfl, rfl⟩, ⟨withTrain [] 1600, rfl, fun _ => rfl, rfl⟩,
    ⟨withTrain [30, 90, 30] 9, rfl, fun _ => rfl, rfl, rfl⟩,
    ⟨withTrain [30, 90, 30, 90] 800, rfl, fun _ => rfl, rfl, rfl, rfl⟩,
    ⟨withTrain [] 801, rfl, fun _ => rfl, rfl, rfl, by decide⟩,
    ⟨withTrain [30] 1599, rfl, fun _ => rfl, rfl, by decide, by decide, by decide, by decide⟩,
    { withTrain [30, 90, 30] 900 with rpt := 4, maxLen := 4 }, rfl, fun _ => rfl, rfl, by decide, by decide, by decide,
    by decide⟩

theorem test_witness_OnlyConfirmedTrainsAreSent :
    ∃ s t : State, exec .edge s = .next t ∧ t.serOut ≠ s.serOut :=
  ⟨{ withTrain [30] 900 with rpt := 2 }, _, rfl, by decide +kernel⟩

theorem test_witness_QuantizeEqualsTwoPasses :
    ∃ (n : Nat) (s : State), 0 < n ∧ n = s.tIdx ∧ s.nCls = 0 := ⟨2, withTrain [30, 90] 0, by decide⟩

theorem test_witness_SymmetricClassesAreApart :
    ∃ (p : Params) (ws : List Nat) (i j : Nat), p.tolMode = .symmetric ∧ i < j ∧ j < (representatives p ws).length :=
  ⟨params, [30, 60, 30, 900], 1, 2, by decide⟩

theorem test_witness_MatchComparesTheTens :
    (∃ (p : Params) (c w : Nat), p.tolMode = .symmetric ∧ c = w + 20 ∧ (c ≤ w + 20 ∧ w ≤ c + 20)) ∧
      (∃ (p : Params) (c w : Nat), p.tolMode = .symmetric ∧ c + 30 = w ∧ (c + 30 ≤ w ∨ w + 30 ≤ c)) ∧
      ∃ (p : Params) (c w : Nat), p.tolMode = .original ∧ c = 30 ∧ w = 59 :=
  ⟨⟨params, 50, 30, by decide⟩, ⟨params, 30, 60, by decide⟩, { params with tolMode := .original }, 30, 59, by decide⟩

theorem test_witness_OriginalMatchIsOneSided :
    ∃ (p : Params) (c w : Nat), p.tolMode = .original ∧ 8 ≤ p.wTick ∧ c < 1600 ∧ w < 1600 :=
  ⟨{ params with tolMode := .original, wTick := 8 }, 0, 1599, by decide⟩

/-- An ordinary byte, the byte that fills the buffer, a terminator, and one that ends a duplicated marker. -/
theorem test_witness_RxbyteHandlesEveryByte :
    (∃ (b : Byte) (s : State), s.rxIdx < s.cfg.rxBufCap ∧ b ≠ 0x40 ∧ s.rxIdx + 1 ≠ s.cfg.rxBufCap) ∧
      (∃ (b : Byte) (s : State), s.rxIdx < s.cfg.rxBufCap ∧ b ≠ 0x40 ∧ s.rxIdx + 1 = s.cfg.rxBufCap) ∧
      (∃ (s : State) (f : Frame), s.rxIdx < s.cfg.rxBufCap ∧
        decodeFrame (Memory.slice s.rxBuf s.rxIdx) = .ok f) ∧
      ∃ (s : State) (e : DecodeError), s.rxIdx < s.cfg.rxBufCap ∧
        decodeFrame (Memory.slice s.rxBuf s.rxIdx) = .error e :=
  ⟨⟨0x3F, start, by decide⟩, ⟨0x41, { start with rxIdx := 63 }, by decide⟩,
    ⟨withBody "s:7", .tune (bytes "7"), by decide, rfl⟩,
    withBody "c:1;c:2;p:10;r:1", .duplicateMarker, by decide, rfl⟩

theorem test_witness_RxbyteLeavesReceptionAlone :
    ∃ (b : Byte) (s t : State), b = 0x40 ∧ exec (.rxbyte b) s = .next t := ⟨0x40, withBody "x", _, rfl, rfl⟩

/-- A body has its markers below its length. -/
theorem marker_lt {body : List Byte} {l : Byte} {q : Nat} (h : MarkerAt body l q) : q < body.length := by
  by_contra hq
  have := h.1
  rw [List.getElem?_eq_none (by omega)] at this
  cases this

/-- No marker below the length of a body is no marker at all. -/
theorem no_marker {body : List Byte} {l : Byte} (h : ∀ q, q < body.length → ¬ MarkerAt body l q) (q : Nat) :
    ¬ MarkerAt body l q := fun hm => h q (marker_lt hm) hm

/-- The only marker below the length of a body is the only one. -/
theorem only_marker {body : List Byte} {l : Byte} {c : Nat} (h : ∀ q, q < body.length → (MarkerAt body l q ↔ q = c))
    (hc : c < body.length) (q : Nat) : MarkerAt body l q ↔ q = c :=
  ⟨fun hm => (h q (marker_lt hm)).1 hm, fun he => (h q (he ▸ hc)).2 he⟩

/-- Clause by clause: an `s:` after other markers; a missing `r:` with `c:` twice; `p:` twice; one of each. -/
theorem test_witness_FrameSelectionFollowsTheMarkers :
    (∃ (body : List Byte) (q : Nat), MarkerAt body 0x73 q ∧ ∀ i, i < q → ¬ MarkerAt body 0x73 i) ∧
      (∃ (body : List Byte) (l : Byte), (∀ q, ¬ MarkerAt body 0x73 q) ∧ (l = 0x63 ∨ l = 0x70 ∨ l = 0x72) ∧
        ∀ q, ¬ MarkerAt body l q) ∧
      (∃ (body : List Byte) (l : Byte) (q i : Nat), (∀ q, ¬ MarkerAt body 0x73 q) ∧ (∃ q, MarkerAt body 0x63 q) ∧
        (∃ q, MarkerAt body 0x70 q) ∧ (∃ q, MarkerAt body 0x72 q) ∧ (l = 0x63 ∨ l = 0x70 ∨ l = 0x72) ∧
        MarkerAt body l q ∧ MarkerAt body l i ∧ q < i) ∧
      ∃ (body : List Byte) (c p r : Nat), (∀ q, ¬ MarkerAt body 0x73 q) ∧ (∀ q, MarkerAt body 0x63 q ↔ q = c) ∧
        (∀ q, MarkerAt body 0x70 q ↔ q = p) ∧ ∀ q, MarkerAt body 0x72 q ↔ q = r :=
  ⟨⟨bytes "c:1s:5s:6", 3, by decide⟩,
    ⟨bytes "c:1;c:2;p:3", 0x72, no_marker (by decide), by decide, no_marker (by decide)⟩,
    ⟨bytes "c:1;p:2;p:3;r:4", 0x70, 4, 8, no_marker (by decide), ⟨0, by decide⟩, ⟨4, by decide⟩, ⟨12, by decide⟩,
      by decide, by decide, by decide, by decide⟩,
    bytes "r:1;c:2;p:3", 4, 8, 0, no_marker (by decide), only_marker (by decide) (by decide),
    only_marker (by decide) (by decide), only_marker (by decide) (by decide)⟩

theorem test_witness_TransmitFieldsInAnyOrder :
    ∃ (c p r : List Byte) (fields : List (Byte × List Byte)),
      (∀ t ∈ [c, p, r], ∀ b ∈ t, b ≠ 0x3A ∧ b ≠ 0x3B) ∧ fields.Perm [(0x63, c), (0x70, p), (0x72, r)] :=
  ⟨bytes "10", bytes "300,900", bytes "1", [(0x72, bytes "1"), (0x70, bytes "300,900"), (0x63, bytes "10")], by decide,
    by decide⟩

theorem test_witness_WholeFrameRunsItsOperation :
    ∃ (i : Instr) (s : State), i.format = .frmIn ∧ i.wellFormed s.cfg = true ∧ s.rxIdx = 0 :=
  ⟨.transmit (bytes "10") (bytes "300,900") (bytes "1"), start, by decide⟩

theorem decBelow_spec {w : Nat} {t : List Byte} (h : decBelow w t = true) : ∃ v, decVal? t = some v ∧ v < 2 ^ w := by
  unfold decBelow at h
  split at h
  · next v hv => exact ⟨v, hv, by simpa using h⟩
  · cases h

theorem fields_ok {w : Nat} {ts : List (List Byte)} (h : ∀ f ∈ ts, f = [] ∨ decBelow w f = true) :
    ∀ f ∈ ts, f = [] ∨ ∃ v, decVal? f = some v ∧ v < 2 ^ w := fun f hf => (h f hf).imp id decBelow_spec

theorem test_witness_TuneAssignsByPosition :
    ∃ (text : List Byte) (s : State), s.cfg.tunable = true ∧ (split 0x2C text).length ≤ 4 ∧
      (∀ f ∈ split 0x2C text, f = [] ∨ ∃ v, decVal? f = some v ∧ v < 2 ^ s.cfg.wCfg) ∧
      tuneValue text 0 = some 60 ∧ tuneValue text 1 = none ∧ tuneValue text 2 = some 900 ∧ tuneValue text 3 = none :=
  ⟨bytes "60,,900,", start, rfl, by decide, fields_ok (w := 32) (by decide), by decide⟩

theorem test_witness_TuneRefusesBadText :
    (∃ (text : List Byte) (s : State), s.cfg.tunable = true ∧ (split 0x2C text).length = 5) ∧
      (∃ (text f : List Byte) (good rest : List (List Byte)) (s : State), s.cfg.tunable = true ∧
        split 0x2C text = good ++ f :: rest ∧ (split 0x2C text).length ≤ 4 ∧ f ≠ [] ∧
        (∀ g ∈ good, g = [] ∨ ∃ v, decVal? g = some v ∧ v < 2 ^ s.cfg.wCfg) ∧ decVal? f = none) ∧
      ∃ (text f : List Byte) (good rest : List (List Byte)) (v : Nat) (s : State), s.cfg.tunable = true ∧
        split 0x2C text = good ++ f :: rest ∧ (split 0x2C text).length ≤ 4 ∧ f ≠ [] ∧
        (∀ g ∈ good, g = [] ∨ ∃ v, decVal? g = some v ∧ v < 2 ^ s.cfg.wCfg) ∧ decVal? f = some v ∧
        v = 2 ^ s.cfg.wCfg :=
  ⟨⟨bytes "1,2,3,4,5", start, by decide⟩,
    ⟨bytes ",5,6s:7,x", bytes "6s:7", [[], bytes "5"], [bytes "x"], start, rfl, rfl, by decide, by decide,
      fields_ok (w := 32) (by decide), by decide⟩,
    bytes "4294967296", bytes "4294967296", [], [], 4294967296, start, rfl, rfl, by decide, by decide,
    fun g hg => absurd hg (by simp), by decide, by decide⟩

theorem test_witness_FixedVariantIgnoresTune :
    ∃ s t : State, s.cfg.tunable = false ∧ step s = .next t ∧ (takeEvent s).1 = some (.rxbyte 0x40) ∧
      (takeEvent s).1 ≠ some .reset :=
  ⟨asked 0b0100#4 0x40 { withBody "s:5" with cfg := { params with tunable := false } }, _, rfl, rfl, by decide, by decide⟩

theorem test_witness_TextFollowsItsNotation :
    (∃ n : Nat, n ≠ 0) ∧ (∃ n w : Nat, n + 1 = 2 ^ w) ∧ (∃ n w : Nat, n = 2 ^ w) ∧
      (∃ t : List Byte, t ≠ [] ∧ ∀ b ∈ t, 0x30 ≤ b.toNat ∧ b.toNat ≤ 0x39) ∧
      (∃ t : List Byte, t ≠ [] ∧ ∃ b ∈ t, ¬ (0x30 ≤ b.toNat ∧ b.toNat ≤ 0x39)) :=
  ⟨⟨1, by decide⟩, ⟨255, 8, by decide⟩, ⟨256, 8, by decide⟩, ⟨bytes "007", by decide⟩,
    bytes "12:", by decide, 0x3A, by decide, by decide⟩

theorem test_witness_IgnoredFrameDoesNothing :
    ∃ s : State, s.rxIdx < s.cfg.rxBufCap ∧ decodeFrame (Memory.slice s.rxBuf s.rxIdx) = .ok .ignored :=
  ⟨withBody "c:102;p:100,200", by decide, rfl⟩

theorem test_witness_TransmitReplaysTheCode :
    ∃ (code widths rep : List Byte) (ws : List Nat) (r : Nat) (s : State),
      s.txPin = false ∧ (∀ k, Memory.read s.pct k = 0) ∧ (∀ b ∈ code, 0x30 ≤ b.toNat ∧ b.toNat ≤ 0x39) ∧
      (split 0x2C widths).map decVal? = ws.map some ∧ ws.length ≤ 10 ∧ (∀ w ∈ ws, w < 2 ^ s.cfg.wPct) ∧
      decVal? rep = some r ∧ r < 2 ^ s.cfg.wRep :=
  ⟨bytes "09", bytes "1,2,3,4,5,6,7,8,9,65535", bytes "255", [1, 2, 3, 4, 5, 6, 7, 8, 9, 65535], 255, start, rfl,
    fun _ => rfl, by decide, by decide, by decide, by decide, by decide, by decide⟩

theorem test_witness_TransmitRefusesBadOperands :
    (∃ code : List Byte, ∃ b ∈ code, isDigit b = false) ∧
      (∃ code widths : List Byte, (∀ b ∈ code, isDigit b = true) ∧ (split 0x2C widths).length = 11) ∧
      (∃ (widths f : List Byte) (good rest : List (List Byte)), split 0x2C widths = good ++ f :: rest ∧
        (split 0x2C widths).length ≤ 10 ∧ (∀ g ∈ good, ∃ v, decVal? g = some v ∧ v < 2 ^ params.wPct) ∧
        decVal? f = none) ∧
      (∃ (widths f : List Byte) (good rest : List (List Byte)), split 0x2C widths = good ++ f :: rest ∧
        (split 0x2C widths).length ≤ 10 ∧ (∀ g ∈ good, ∃ v, decVal? g = some v ∧ v < 2 ^ params.wPct) ∧
        decVal? f = some (2 ^ params.wPct)) ∧
      (∃ widths rep : List Byte, (split 0x2C widths).length ≤ 10 ∧
        (∀ g ∈ split 0x2C widths, ∃ v, decVal? g = some v ∧ v < 2 ^ params.wPct) ∧ decVal? rep = none) ∧
      ∃ widths rep : List Byte, (split 0x2C widths).length ≤ 10 ∧
        (∀ g ∈ split 0x2C widths, ∃ v, decVal? g = some v ∧ v < 2 ^ params.wPct) ∧
        decVal? rep = some (2 ^ params.wRep) :=
  ⟨⟨bytes "1:2", 0x3A, by decide, by decide⟩, ⟨bytes "1", bytes "1,2,3,4,5,6,7,8,9,10,11", by decide, by decide⟩,
    ⟨bytes "10,,20", [], [bytes "10"], [bytes "20"], rfl, by decide,
      fun g hg => decBelow_spec ((by decide : ∀ g ∈ [bytes "10"], decBelow 16 g = true) g hg), by decide⟩,
    ⟨bytes "10,65536", bytes "65536", [bytes "10"], [], rfl, by decide,
      fun g hg => decBelow_spec ((by decide : ∀ g ∈ [bytes "10"], decBelow 16 g = true) g hg), by decide⟩,
    ⟨bytes "10,65535", bytes "1 ", by decide,
      fun g hg => decBelow_spec ((by decide : ∀ g ∈ split 0x2C (bytes "10,65535"), decBelow 16 g = true) g hg),
      by decide⟩,
    bytes "10", bytes "256", by decide,
    fun g hg => decBelow_spec ((by decide : ∀ g ∈ split 0x2C (bytes "10"), decBelow 16 g = true) g hg), by decide⟩

theorem test_witness_SymTogglesAndHolds :
    (∃ (d : BitVec 4) (s : State), d.toNat = 9 ∧ s.cfg.txInsertMark = false) ∧
      ∃ (d : BitVec 4) (s : State), d.toNat = 0 ∧ s.cfg.txInsertMark = true :=
  ⟨⟨9, start, by decide⟩, 0, { start with cfg := { params with txInsertMark := true } }, by decide⟩

theorem test_witness_SymAboveNineIsRefused : ∃ d : BitVec 4, d.toNat = 10 ∧ 9 < d.toNat := ⟨10, by decide⟩

/-- Ten widths and the largest repeat count, with and without the class-0 interval; a code of two digits, so that there is
a segment to speak of. -/
theorem test_witness_ReplayTogglesAndDuration :
    ∃ (code widths rep : List Byte) (ws : List Nat) (r : Nat), ∀ mark : Bool, ∃ s : State,
      s.cfg.txInsertMark = mark ∧ s.txPin = false ∧ (∀ k, Memory.read s.pct k = 0) ∧
      (∀ b ∈ code, 0x30 ≤ b.toNat ∧ b.toNat ≤ 0x39) ∧ (split 0x2C widths).map decVal? = ws.map some ∧
      ws.length ≤ 10 ∧ (∀ w ∈ ws, w < 2 ^ s.cfg.wPct) ∧ decVal? rep = some r ∧ r < 2 ^ s.cfg.wRep ∧
      0 < r * code.length :=
  ⟨bytes "09", bytes "1,2,3,4,5,6,7,8,9,65535", bytes "255", [1, 2, 3, 4, 5, 6, 7, 8, 9, 65535], 255, fun mark =>
    ⟨{ start with cfg := { params with txInsertMark := mark } }, rfl, rfl, fun _ => rfl, by decide, by decide,
      by decide, (by decide : ∀ w ∈ [1, 2, 3, 4, 5, 6, 7, 8, 9, 65535], w < 2 ^ 16), by decide,
      (by decide : 255 < 2 ^ 8), by decide⟩⟩

/-- PG3's train. -/
theorem test_witness_CapturedTrainRoundTrips :
    ∃ (s : State) (ws : List Nat), s.cfg.txInsertMark = true ∧ s.txPin = false ∧ (∀ k, Memory.read s.pct k = 0) ∧
      16 ≤ s.cfg.wPct ∧ 0 < s.cfg.wRep ∧ s.cfg.overflowClass < 10 ∧ ws ≠ [] ∧ ws.length % 2 = 0 ∧
      (∀ w ∈ ws, w < 1600) ∧
      ∀ (i : Nat) (h : i < ws.length), i % 2 = 0 → classIn s.cfg (representatives s.cfg ws) ws[i] = 0 :=
  ⟨{ start with cfg := { params with txInsertMark := true } }, [28, 33, 31, 92, 27, 88, 30, 29, 34, 95, 30, 1020], rfl,
    rfl, fun _ => rfl, by decide, by decide, by decide, by decide, by decide, by decide, by decide⟩

theorem test_witness_DecodeInvertsEncode :
    (∃ (p : Params) (i : Instr), i.format = .frmIn ∧ i.wellFormed p = true) ∧
      ∃ (p : Params) (i : Instr), i.format = .frmOut ∧ i.wellFormed p = true :=
  ⟨⟨params, .tune (bytes "50,,800"), by decide⟩, params, .captured (bytes "0123456789"), by decide⟩

theorem test_witness_OutboundStreamParsesUniquely :
    ∃ (os : List OutFrame) (fuel : Nat), os.length ≤ fuel ∧ os.length = 3 ∧
      ∀ o ∈ os, ∀ code ws, o = .captured code ws → code.all isDigit = true := by
  refine ⟨[.heartbeat, .captured (bytes "12") [300, 900], .tuneAck 1 2 3 4], 3, by decide, by decide, ?_⟩
  intro o ho code ws he
  subst he
  simp at ho
  rw [ho.1]
  decide

theorem test_witness_StepRunsTheDeliveredEvent :
    ∃ (s : State) (r : Request) (rest : List Request) (i : Instr), s.input = r :: rest ∧
      decodeEvent r.vector r.data = .ok i :=
  ⟨asked 0b0100#4 0x73 start, ⟨0b0100#4, 0x73⟩, [], .rxbyte 0x73, rfl, rfl⟩

theorem test_witness_ResetOverridesSimultaneousEvents :
    ∃ (s : State) (r : Request) (rest : List Request), s.input = r :: rest ∧ r.vector.getLsbD 3 = true ∧
      r.vector ≠ 0b1000#4 :=
  ⟨asked 0b1111#4 0 start, ⟨0b1111#4, 0⟩, [], rfl, by decide, by decide⟩

theorem test_witness_SimultaneousEventsAreSerialised :
    ∃ (s : State) (r : Request) (rest : List Request), s.input = r :: rest ∧ r.vector.getLsbD 3 = false ∧
      decodeEvent r.vector r.data = .error .severalEvents :=
  ⟨asked 0b0111#4 0 start, ⟨0b0111#4, 0⟩, [], rfl, by decide, rfl⟩

theorem test_witness_HandlersRestoreInterrupts :
    ∃ (i : Instr) (s t : State), i.format = .evt ∧ s.ie = false ∧ exec i s = .next t :=
  ⟨.edge, { withTrain [30] 5 with ie := false }, _, rfl, rfl, rfl⟩

theorem test_witness_IdleChangesNothing :
    (∃ s : State, s.input = []) ∧
      ∃ (s : State) (r : Request) (rest : List Request), s.input = r :: rest ∧ r.vector = 0#4 :=
  ⟨⟨start, rfl⟩, asked 0#4 0 start, ⟨0#4, 0⟩, [], rfl, rfl⟩

/-- The state after reset under the test parameters, with one width in the train and one byte in the buffer, meets the
step-boundary invariant. -/
theorem test_witness_inv :
    ({ start with train := [(0, 30)], tIdx := 1, rxBuf := [(0, 0x73)], rxIdx := 1 } : State).Inv where
  cfgValid := by decide
  ieSet := rfl
  pinLow := rfl
  noClass := rfl
  tableClear := fun _ => rfl
  tIdxBound := by decide
  rxIdxBound := by decide
  rxNoTerm := by decide
  hbBound := by decide
  rptBound := by decide
  tickFits := by decide
  trainKept := by decide
  minLenFits := by decide
  maxLenFits := by decide
  minGapFits := by decide
  maxGapFits := by decide
  trainWf := by decide
  pctWf := Memory.nil_wf
  rxBufWf := by decide

theorem test_witness_StepKeepsTheInvariant : ∃ s t : State, s.Inv ∧ step s = .next t := ⟨_, _, test_witness_inv, rfl⟩

theorem test_witness_NoFaultFromAStepBoundary : ∃ s : State, s.Inv := ⟨_, test_witness_inv⟩

theorem test_witness_OnlyATerminatorIsRefused : ∃ (s : State) (r : Refusal), step s = .refused r :=
  ⟨asked 0b0100#4 0x40 (withBody "c:1a;p:10;r:1"), _, rfl⟩

theorem test_witness_ParametersNeverChange : ∃ s t : State, step s = .next t ∧ (takeEvent s).1 = some .edge :=
  ⟨asked 0b0010#4 0 (withTrain [30] 35), _, rfl, by decide⟩

theorem test_witness_ObservationsOnlyGrow :
    ∃ s t : State, step s = .next t ∧ (takeEvent s).1 ≠ some .reset :=
  ⟨asked 0b0001#4 0 { start with hbCnt := 4 }, _, rfl, by decide⟩

/-- Both sides of the premise: a TUNE frame in the fixed variant; in the tunable variant, an IGNORED frame's
terminator. -/
theorem test_witness_TuningRegistersChangeOnlyByTune :
    (∃ s t : State, step s = .next t ∧ (takeEvent s).1 ≠ some .reset ∧ s.cfg.tunable = false) ∧
      ∃ s t : State, step s = .next t ∧ (takeEvent s).1 ≠ some .reset ∧ s.cfg.tunable = true ∧
        (takeEvent s).1 = some (.rxbyte 0x40) ∧
        ¬ ∃ text, (takeEvent s).1 = some (.rxbyte 0x40) ∧
          decodeFrame (Memory.slice s.rxBuf s.rxIdx) = .ok (.tune text) := by
  refine ⟨⟨asked 0b0100#4 0x40 { withBody "s:5" with cfg := { params with tunable := false } }, _, rfl, by decide,
    rfl⟩, asked 0b0100#4 0x40 (withBody "c:102;p:100,200"), _, rfl, by decide, rfl, by decide, ?_⟩
  rintro ⟨text, -, h⟩
  have hi : decodeFrame (Memory.slice (withBody "c:102;p:100,200").rxBuf (withBody "c:102;p:100,200").rxIdx) =
    .ok .ignored := rfl
  cases hi.symm.trans h

theorem test_witness_UnreadElementsDoNotMatter : ∃ s u : State, s ≠ u ∧ s.AgreeWhereRead u :=
  ⟨withTrain [30] 35, { withTrain [30] 35 with train := [(0, 30), (1, 7)], rxBuf := [(0, 0x40)] }, by decide, rfl,
    by decide, fun _ h => absurd h (Nat.not_lt_zero _)⟩

end Sys2Proof.Tests
end

section
/-! PROOFS. Decimal text and lists of text (00_scope.md R12): the equations of `dec`, `decVal?`, `parseDec`, `split`
and `join`, and the obligation that states the rule. -/

namespace Sys2Proof.Machine

/-! ### Digits -/

theorem isDigit_iff (b : Byte) : isDigit b = true ↔ 0x30 ≤ b.toNat ∧ b.toNat ≤ 0x39 := by
  simp [isDigit]

theorem digit_toNat {k : Nat} (h : k < 10) : (digit k).toNat = 0x30 + k := by
  rw [digit, BitVec.toNat_ofNat]
  omega

@[simp] theorem digitVal_digit {k : Nat} (h : k < 10) : digitVal (digit k) = k := by
  rw [digitVal, digit_toNat h]
  omega

@[simp] theorem isDigit_digit {k : Nat} (h : k < 10) : isDigit (digit k) = true := by
  rw [isDigit_iff, digit_toNat h]
  omega

theorem digitVal_lt {b : Byte} (h : isDigit b = true) : digitVal b < 10 := by
  rw [isDigit_iff] at h
  unfold digitVal
  omega

theorem digit_digitVal {b : Byte} (h : isDigit b = true) : digit (digitVal b) = b := by
  apply BitVec.eq_of_toNat_eq
  rw [digit_toNat (digitVal_lt h), digitVal]
  rw [isDigit_iff] at h
  omega

/-! ### `dec` -/

theorem decDigits_acc (fuel n : Nat) (acc : List Byte) : decDigits fuel n acc = decDigits fuel n [] ++ acc := by
  induction fuel generalizing n acc with
  | zero => rfl
  | succ fuel ih =>
    unfold decDigits
    split
    · rfl
    · rw [ih, ih (acc := [digit (n % 10)]), List.append_assoc, List.singleton_append]

/-- Any fuel above the number gives the same digits. -/
theorem decDigits_fuel {fuel fuel' n : Nat} (h : n < fuel) (h' : n < fuel') (acc : List Byte) :
    decDigits fuel n acc = decDigits fuel' n acc := by
  induction fuel generalizing fuel' n acc with
  | zero => omega
  | succ fuel ih =>
    obtain ⟨fuel', rfl⟩ : ∃ k, fuel' = k + 1 := ⟨fuel' - 1, by omega⟩
    unfold decDigits
    split
    · rfl
    · exact ih (by omega) (by omega) _

theorem dec_of_lt {n : Nat} (h : n < 10) : dec n = [digit n] := by
  simp [dec, decDigits, h]

theorem dec_of_ge {n : Nat} (h : 10 ≤ n) : dec n = dec (n / 10) ++ [digit (n % 10)] := by
  rw [dec, decDigits, if_neg (by omega), decDigits_acc, dec,
    decDigits_fuel (fuel' := n / 10 + 1) (by omega) (by omega)]

theorem dec_append_digit {n d : Nat} (hn : n ≠ 0) (hd : d < 10) : dec n ++ [digit d] = dec (10 * n + d) := by
  rw [dec_of_ge (n := 10 * n + d) (by omega), show (10 * n + d) / 10 = n by omega,
    show (10 * n + d) % 10 = d by omega]

/-- Induction along the spelling: one digit, or one more digit at the end. -/
theorem dec_induction {P : Nat → Prop} (single : ∀ n, n < 10 → P n) (more : ∀ n, 10 ≤ n → P (n / 10) → P n)
    (n : Nat) : P n := by
  induction n using Nat.strong_induction_on with
  | _ n ih =>
    by_cases h : n < 10
    · exact single n h
    · exact more n (by omega) (ih (n / 10) (by omega))

theorem dec_ne_nil (n : Nat) : dec n ≠ [] := by
  by_cases h : n < 10
  · simp [dec_of_lt h]
  · simp [dec_of_ge (Nat.le_of_not_lt h)]

/-- No leading zero (R12). -/
theorem dec_head_ne_zero {n : Nat} (hn : n ≠ 0) : (dec n).head? ≠ some 0x30 := by
  induction n using dec_induction with
  | single n h =>
    rw [dec_of_lt h, List.head?_cons, ne_eq, Option.some_inj]
    intro he
    have hv : digitVal 0x30 = n := he ▸ digitVal_digit h
    exact hn hv.symm
  | more n h ih =>
    rw [dec_of_ge h, List.head?_append_of_ne_nil _ (dec_ne_nil _)]
    exact ih (by omega)

/-! ### The number a text spells -/

theorem decVal?_eq_none_iff (t : List Byte) :
    decVal? t = none ↔ t = [] ∨ ∃ b ∈ t, ¬ (0x30 ≤ b.toNat ∧ b.toNat ≤ 0x39) := by
  simp only [← isDigit_iff, decVal?]
  simp [or_iff_not_imp_left]

theorem decVal?_eq_some_iff (t : List Byte) (v : Nat) :
    decVal? t = some v ↔
      t ≠ [] ∧ (∀ b ∈ t, isDigit b = true) ∧ t.foldl (fun v b => 10 * v + digitVal b) 0 = v := by
  simp [decVal?, and_assoc]

theorem decVal?_singleton {b : Byte} (h : isDigit b = true) : decVal? [b] = some (digitVal b) := by
  simp [decVal?_eq_some_iff, h]

theorem decVal?_append_digit {t : List Byte} {v : Nat} {b : Byte} (ht : decVal? t = some v)
    (hb : isDigit b = true) : decVal? (t ++ [b]) = some (10 * v + digitVal b) := by
  rw [decVal?_eq_some_iff] at ht ⊢
  obtain ⟨-, hd, hv⟩ := ht
  refine ⟨by simp, List.forall_mem_append.mpr ⟨hd, by simpa using hb⟩, ?_⟩
  rw [List.foldl_append, hv, List.foldl_cons, List.foldl_nil]

theorem decVal?_zero_cons {t : List Byte} {v : Nat} (ht : decVal? t = some v) :
    decVal? (0x30 :: t) = some v := by
  rw [decVal?_eq_some_iff] at ht ⊢
  obtain ⟨-, hd, hv⟩ := ht
  exact ⟨by simp, List.forall_mem_cons.mpr ⟨rfl, hd⟩, hv⟩

theorem decVal?_dec (n : Nat) : decVal? (dec n) = some n := by
  induction n using dec_induction with
  | single n h => rw [dec_of_lt h, decVal?_singleton (isDigit_digit h), digitVal_digit h]
  | more n h ih =>
    have hd : n % 10 < 10 := by omega
    rw [dec_of_ge h, decVal?_append_digit ih (isDigit_digit hd), digitVal_digit hd, Nat.div_add_mod]

/-- Leading zeros do not change the number (R12). -/
theorem decVal?_zeros_dec (z n : Nat) : decVal? (List.replicate z 0x30 ++ dec n) = some n := by
  induction z with
  | zero => exact decVal?_dec n
  | succ z ih => exact decVal?_zero_cons ih

/-- Every non-empty digit string is the spelling of a number after some zeros. -/
theorem eq_zeros_dec_of_digits {t : List Byte} (hne : t ≠ []) (hd : ∀ b ∈ t, isDigit b = true) :
    ∃ n z, t = List.replicate z 0x30 ++ dec n := by
  induction t using List.reverseRecOn with
  | nil => exact absurd rfl hne
  | append_singleton t b ih =>
    have hb : isDigit b = true := hd b (by simp)
    have hlt := digitVal_lt hb
    by_cases ht : t = []
    · exact ⟨digitVal b, 0, by simp [ht, dec_of_lt hlt, digit_digitVal hb]⟩
    · obtain ⟨n, z, htn⟩ := ih ht fun c hc => hd c (by simp [hc])
      by_cases hn : n = 0
      · refine ⟨digitVal b, z + 1, ?_⟩
        rw [htn, hn, dec_of_lt hlt, digit_digitVal hb, List.replicate_succ']
        rfl
      · refine ⟨10 * n + digitVal b, z, ?_⟩
        rw [htn, ← dec_append_digit hn hlt, digit_digitVal hb, List.append_assoc]

/-! ### `parseDec` -/

theorem parseDec_of_some {t : List Byte} {n : Nat} (h : decVal? t = some n) (w : Nat) :
    parseDec t w = if n < 2 ^ w then .ok n else .error .numberTooLarge := by
  simp [parseDec, h]

theorem parseDec_of_none {t : List Byte} (h : decVal? t = none) (w : Nat) :
    parseDec t w = .error .badNumber := by
  simp [parseDec, h]

/-! ### `split` and `join` -/

theorem split_ne_nil (c : Byte) (t : List Byte) : split c t ≠ [] := by
  cases t with
  | nil => simp [split]
  | cons b bs =>
    rw [split]
    split
    · simp
    · split <;> simp

theorem split_cons_self (c : Byte) (bs : List Byte) : split c (c :: bs) = [] :: split c bs := by
  obtain ⟨p, ps, h⟩ := List.exists_cons_of_ne_nil (split_ne_nil c bs)
  simp [split, h]

theorem split_cons_ne {b c : Byte} (hb : b ≠ c) {bs p : List Byte} {ps : List (List Byte)}
    (h : split c bs = p :: ps) : split c (b :: bs) = (b :: p) :: ps := by
  simp [split, h, hb]

theorem join_cons (c : Byte) (p : List Byte) {ps : List (List Byte)} (h : ps ≠ []) :
    join c (p :: ps) = p ++ c :: join c ps := by
  obtain ⟨q, qs, rfl⟩ := List.exists_cons_of_ne_nil h
  rfl

theorem join_cons_cons (c b : Byte) (p : List Byte) (ps : List (List Byte)) :
    join c ((b :: p) :: ps) = b :: join c (p :: ps) := by
  cases ps <;> rfl

/-- `split` cuts at every occurrence of the separator and nowhere else, and loses no byte (R12). -/
theorem split_spec (c : Byte) (t : List Byte) :
    (split c t).length = t.count c + 1 ∧ join c (split c t) = t ∧ ∀ p ∈ split c t, c ∉ p := by
  induction t with
  | nil => simp [split, join]
  | cons b bs ih =>
    obtain ⟨hlen, hjoin, hfree⟩ := ih
    by_cases hb : b = c
    · subst hb
      rw [split_cons_self]
      refine ⟨by simp [hlen], ?_, by simpa using hfree⟩
      rw [join_cons b [] (split_ne_nil b bs), hjoin, List.nil_append]
    · obtain ⟨p, ps, hs⟩ := List.exists_cons_of_ne_nil (split_ne_nil c bs)
      rw [hs] at hlen hjoin hfree
      rw [split_cons_ne hb hs]
      obtain ⟨hp, hps⟩ := List.forall_mem_cons.mp hfree
      refine ⟨?_, ?_, List.forall_mem_cons.mpr ⟨?_, hps⟩⟩
      · rw [List.count_cons_of_ne hb, ← hlen, List.length_cons, List.length_cons]
      · rw [join_cons_cons, hjoin]
      · exact List.not_mem_cons_of_ne_of_not_mem (Ne.symm hb) hp

/-- Settles O27, from the equations of `dec` (one digit, or one more digit at the end) and of `split`. -/
theorem textFollowsItsNotation : Obligations.TextFollowsItsNotation := by
  refine ⟨rfl, fun n => dec_head_ne_zero, fun n z w => parseDec_of_some (decVal?_zeros_dec z n) w, ?_, ?_, split_spec⟩
  · exact fun t hne hd => eq_zeros_dec_of_digits hne fun b hb => (isDigit_iff b).mpr (hd b hb)
  · exact fun t w h => parseDec_of_none ((decVal?_eq_none_iff t).mpr h) w

end Sys2Proof.Machine
end

section
/-! PROOFS. Taking an event and running it (00_scope.md R5, R11; 30_encoding.md R71): which event a step takes by the
next delivered vector, which event can be refused, and the obligations about a step as a whole. -/

namespace Sys2Proof.Machine

open Sys2Proof.Config

/-! ### Which event a step takes -/

theorem takeEvent_of_nil {s : State} (h : s.input = []) : takeEvent s = (none, s) := by
  simp [takeEvent, h]

theorem takeEvent_of_rst {s : State} {r : Request} {rest : List Request} (h : s.input = r :: rest)
    (hr : r.vector.getLsbD 3 = true) : takeEvent s = (some .reset, { s with input := rest }) := by
  simp only [takeEvent, h, hr]
  rfl

theorem takeEvent_of_requested_nil {s : State} {r : Request} {rest : List Request} (h : s.input = r :: rest)
    (hr : r.vector.getLsbD 3 = false) (hq : requested r.vector = []) :
    takeEvent s = (none, { s with input := rest }) := by
  simp only [takeEvent, h, hr, hq]
  rfl

theorem takeEvent_of_requested_singleton {s : State} {r : Request} {rest : List Request} {v : EventVector}
    (h : s.input = r :: rest) (hr : r.vector.getLsbD 3 = false) (hq : requested r.vector = [v]) :
    takeEvent s = ((decodeEvent v r.data).toOption, { s with input := rest }) := by
  simp only [takeEvent, h, hr, hq]
  rfl

/-- Only the four one-hot vectors decode to an event (R71). -/
theorem decodeEvent_ok_vector {v : EventVector} {b : Byte} {i : Instr} (h : decodeEvent v b = .ok i) :
    (v = 0b1000#4 ∧ i = .reset) ∨ v = 0b0100#4 ∨ v = 0b0010#4 ∨ v = 0b0001#4 := by
  unfold decodeEvent at h
  split at h
  · next hv => exact .inl ⟨hv, (Except.ok.inj h).symm⟩
  split at h
  · next hv => exact .inr (.inl hv)
  split at h
  · next hv => exact .inr (.inr (.inl hv))
  split at h
  · next hv => exact .inr (.inr (.inr hv))
  split at h <;> cases h

/-- A one-hot vector other than `rst` requests itself alone (R71). -/
theorem requested_of_oneHot {v : EventVector} (h : v = 0b0100#4 ∨ v = 0b0010#4 ∨ v = 0b0001#4) :
    v.getLsbD 3 = false ∧ requested v = [v] := by
  rcases h with rfl | rfl | rfl <;> decide

/-- A vector that decodes to an event is taken as that event (R71). -/
theorem takeEvent_of_decodeEvent {s : State} {r : Request} {rest : List Request} {i : Instr}
    (h : s.input = r :: rest) (hd : decodeEvent r.vector r.data = .ok i) :
    takeEvent s = (some i, { s with input := rest }) := by
  rcases decodeEvent_ok_vector hd with ⟨hv, rfl⟩ | hv
  · exact takeEvent_of_rst h (by rw [hv]; rfl)
  · obtain ⟨hr, hq⟩ := requested_of_oneHot hv
    rw [takeEvent_of_requested_singleton h hr hq, hd]
    rfl

/-- Settles O39: a vector that decodes is one-hot, so the step takes the event it decodes to. -/
theorem stepRunsTheDeliveredEvent : Obligations.StepRunsTheDeliveredEvent :=
  fun _ _ _ _ hin hd => step_of_takeEvent (takeEvent_of_decodeEvent hin hd)

/-- Settles O43: neither an empty queue nor the vector `0000` holds an event to take. -/
theorem idleChangesNothing : Obligations.IdleChangesNothing := by
  refine fun s => ⟨fun hin => step_of_noEvent (takeEvent_of_nil hin), fun r rest hin hv => ?_⟩
  have hq : requested r.vector = [] := by rw [hv]; rfl
  exact step_of_noEvent (takeEvent_of_requested_nil hin (by rw [hv]; rfl) hq)

/-! ### Which event can be refused -/

theorem step_of_event {s : State} {i : Instr} (h : (takeEvent s).1 = some i) : step s = exec i (takeEvent s).2 :=
  step_of_takeEvent (Prod.ext h rfl)

/-- RXBYTE refuses nothing but the terminator (R171). -/
theorem eq_term_of_execRxbyte_refused {b : Byte} {s : State} {r : Refusal}
    (h : execRxbyte b s = .refused r) : b = term := by
  rcases execRxbyte_cases b s with ⟨-, he⟩ | ⟨-, -, he⟩ | ⟨-, hb, -⟩
  · cases he.symm.trans h
  · cases he.symm.trans h
  · exact hb

/-- Settles O46: RESET, TICK and EDGE always complete, and RXBYTE refuses only the terminator. -/
theorem onlyATerminatorIsRefused : Obligations.OnlyATerminatorIsRefused := by
  intro s r h
  rcases takeEvent_cases s with he | he | he | he | ⟨b, he⟩
  · cases (step_of_noEvent (Prod.ext he rfl)).symm.trans h
  · cases (step_of_event he).symm.trans h
  · cases (step_of_event he).symm.trans h
  · cases (step_of_event he).symm.trans h
  · have hb : b = term := eq_term_of_execRxbyte_refused ((step_of_event he).symm.trans h)
    rw [he, hb]

end Sys2Proof.Machine
end

section
/-! PROOFS. What a completed step can do, said once (00_scope.md R5): one case per event, and what TICK, EDGE and
RXBYTE each change. The obligations on what no step, or only some step, writes follow from the cases. -/

namespace Sys2Proof.Machine

open Sys2Proof.Config

/-! ### The cases of a completed step -/

/-- A completed step took nothing, or completed the handler of one of the four events. -/
theorem step_next_cases {s t : State} (h : step s = .next t) :
    t = (takeEvent s).2 ∨
    ((takeEvent s).1 = some .reset ∧ execReset (takeEvent s).2 = .next t) ∨
    execTick (takeEvent s).2 = .next t ∨
    execEdge (takeEvent s).2 = .next t ∨
    ∃ b, (takeEvent s).1 = some (.rxbyte b) ∧ execRxbyte b (takeEvent s).2 = .next t := by
  rcases takeEvent_cases s with he | he | he | he | ⟨b, he⟩
  · cases (step_of_noEvent (Prod.ext he rfl)).symm.trans h
    exact .inl rfl
  · exact .inr (.inl ⟨he, (step_of_event he).symm.trans h⟩)
  · exact .inr (.inr (.inl ((step_of_event he).symm.trans h)))
  · exact .inr (.inr (.inr (.inl ((step_of_event he).symm.trans h))))
  · exact .inr (.inr (.inr (.inr ⟨b, he, (step_of_event he).symm.trans h⟩)))

/-- TICK whole (R100, R101). -/
theorem execTick_eq (s : State) : execTick s = .next
    { s with
      tick := (s.tick + 1) % 2 ^ s.cfg.wTick
      hbCnt := if s.hbCnt + 1 = s.cfg.heartbeatTicks then 0 else s.hbCnt + 1
      serOut := if s.hbCnt + 1 = s.cfg.heartbeatTicks then s.serOut ++ [0x0A] else s.serOut
      ie := true } := by
  by_cases hb : s.hbCnt + 1 = s.cfg.heartbeatTicks
  · simp [execTick, heartbeatStep, hb, enterHandler, leaveHandler, sendHeartbeat, emit, OutFrame.encode]
  · simp [execTick, heartbeatStep, hb, enterHandler, leaveHandler]

/-- TERMINATE clears the index and may write `RPT`, the class table and `SER_OUT`; nothing else changes. -/
theorem terminate_frame (s : State) :
    ∃ rpt pct nCls bs, terminate s =
      { s with tIdx := 0, rpt := rpt, pct := pct, nCls := nCls, serOut := s.serOut ++ bs } := by
  rcases terminate_cases s with ⟨-, he⟩ | ⟨-, -, -, he⟩ | ⟨-, -, -, he⟩
  · exact ⟨s.rpt, s.pct, s.nCls, [], by rw [he, List.append_nil]⟩
  · exact ⟨s.tIdx, s.pct, s.nCls, [], by rw [he, List.append_nil]⟩
  · obtain ⟨bs, hq⟩ := quantize_frame s.tIdx s
    exact ⟨_, [], 0, bs, by rw [he, hq]⟩

/-- ASSEMBLE may write the train and its index, `RPT`, the class table and `SER_OUT`; nothing else changes. -/
theorem assemble_frame (w : Nat) (s : State) :
    ∃ train tIdx rpt pct nCls bs, assemble w s =
      { s with train := train, tIdx := tIdx, rpt := rpt, pct := pct, nCls := nCls, serOut := s.serOut ++ bs } := by
  rcases assemble_cases w s with ⟨-, he⟩ | ⟨-, -, -, he⟩ | ⟨-, -, -, he⟩
  · exact ⟨s.train, s.tIdx, s.rpt, s.pct, s.nCls, [], by rw [he, List.append_nil]⟩
  · exact ⟨_, _, s.rpt, s.pct, s.nCls, [], by rw [he, append_frame, List.append_nil]⟩
  · obtain ⟨rpt, pct, nCls, bs, ht⟩ := terminate_frame (append w s)
    exact ⟨_, 0, rpt, pct, nCls, bs, by rw [he, ht, append_frame]⟩

/-- RXBYTE at the terminator: the frame is the bytes before it (R171). -/
theorem execRxbyte_term {s : State} (hlt : s.rxIdx < s.cfg.rxBufCap) :
    execRxbyte term s = onNext (executeFrame (Memory.slice s.rxBuf s.rxIdx) (storeByte term (enterHandler s)))
      (fun t => leaveHandler (clearRx t)) := by
  rcases execRxbyte_cases term s with ⟨hle, -⟩ | ⟨-, hb, -⟩ | ⟨-, -, he⟩
  · omega
  · exact absurd rfl hb
  · rw [he, slice_write_at]
    rfl

theorem execRxbyte_of_ne_term {b : Byte} {s : State} (hlt : s.rxIdx < s.cfg.rxBufCap) (hb : b ≠ term) :
    execRxbyte b s = .next { s with
      rxBuf := Memory.write s.rxBuf s.rxIdx b, ie := true
      rxIdx := if s.rxIdx + 1 = s.cfg.rxBufCap then 0 else s.rxIdx + 1 } := by
  rcases execRxbyte_cases b s with ⟨hle, -⟩ | ⟨-, -, he⟩ | ⟨-, hb', -⟩
  · omega
  · exact he
  · exact absurd hb' hb

theorem execRxbyte_of_le {b : Byte} {s : State} (hle : s.cfg.rxBufCap ≤ s.rxIdx) :
    execRxbyte b s = .fault (.indexOutOfRange .rxBuf s.rxIdx) := if_neg (Nat.not_lt.2 hle)

theorem onNext_next {o : Outcome} {f : State → State} {t : State} (h : onNext o f = .next t) :
    ∃ u, o = .next u ∧ t = f u := by
  cases o with
  | next u => exact ⟨u, rfl, (Host.Outcome.next.inj h).symm⟩
  | fault e => cases h
  | refused r => cases h

/-- RXBYTE completes on an ordinary byte, which is stored, or on the terminator of a frame that completes (R171). -/
theorem execRxbyte_next_cases {b : Byte} {s t : State} (h : execRxbyte b s = .next t) :
    (s.rxIdx < s.cfg.rxBufCap ∧ b ≠ term ∧
      t = { s with
        rxBuf := Memory.write s.rxBuf s.rxIdx b, ie := true
        rxIdx := if s.rxIdx + 1 = s.cfg.rxBufCap then 0 else s.rxIdx + 1 }) ∨
    (b = term ∧ ∃ f u, decodeFrame (Memory.slice s.rxBuf s.rxIdx) = .ok f ∧
      runFrame f (storeByte b (enterHandler s)) = .next u ∧ t = leaveHandler (clearRx u)) := by
  rcases execRxbyte_cases b s with ⟨-, he⟩ | ⟨hlt, hb, he⟩ | ⟨-, hb, he⟩ <;> rw [he] at h
  · cases h
  · cases h
    exact .inl ⟨hlt, hb, rfl⟩
  · rw [slice_write_at] at h
    obtain ⟨u, hx, rfl⟩ := onNext_next h
    obtain ⟨f, hf, hu⟩ := executeFrame_next hx
    exact .inr ⟨hb, f, u, hf, hu, rfl⟩

/-! ### What every event but RESET keeps -/

/-- The parameters as before, and the observations at most longer at their end (R33, R34, R39). -/
structure Extends (s t : State) : Prop where
  cfg : t.cfg = s.cfg
  serOut : ∃ bs, t.serOut = s.serOut ++ bs
  txTrace : ∃ gs, t.txTrace = s.txTrace ++ gs

theorem execTick_extends {s t : State} (h : execTick s = .next t) : Extends s t := by
  cases (execTick_eq s).symm.trans h
  refine ⟨rfl, ?_, [], (List.append_nil _).symm⟩
  by_cases hb : s.hbCnt + 1 = s.cfg.heartbeatTicks
  · exact ⟨[0x0A], if_pos hb⟩
  · exact ⟨[], (if_neg hb).trans (List.append_nil _).symm⟩

theorem execEdge_extends {s t : State} (h : execEdge s = .next t) : Extends s t := by
  obtain ⟨train, tIdx, rpt, pct, nCls, bs, ha⟩ := assemble_frame s.tick { s with tick := 0, ie := false }
  rw [execEdge_eq, ha] at h
  cases h
  exact ⟨rfl, ⟨bs, rfl⟩, [], (List.append_nil _).symm⟩

theorem execRxbyte_extends {b : Byte} {s t : State} (h : execRxbyte b s = .next t) : Extends s t := by
  rcases execRxbyte_next_cases h with ⟨-, -, rfl⟩ | ⟨-, f, u, -, hu, rfl⟩
  · exact ⟨rfl, ⟨[], (List.append_nil _).symm⟩, [], (List.append_nil _).symm⟩
  · have hk := runFrame_keeps hu
    exact ⟨hk.cfg, hk.serOut, hk.txTrace⟩

/-- Taking an event touches neither the parameters nor the observations. -/
theorem step_extends {s t : State} (h : step s = .next t) (hr : (takeEvent s).1 ≠ some .reset) : Extends s t := by
  have key : Extends (takeEvent s).2 t := by
    rcases step_next_cases h with rfl | ⟨he, -⟩ | ht | ht | ⟨b, -, ht⟩
    · exact ⟨rfl, ⟨[], (List.append_nil _).symm⟩, [], (List.append_nil _).symm⟩
    · exact absurd he hr
    · exact execTick_extends ht
    · exact execEdge_extends ht
    · exact execRxbyte_extends ht
  rw [takeEvent_frame] at key
  exact ⟨key.cfg, key.serOut, key.txTrace⟩

/-- Settles O49: every event but RESET only appends to the observations. -/
theorem observationsOnlyGrow : Obligations.ObservationsOnlyGrow :=
  fun _ _ h hr => ⟨(step_extends h hr).serOut, (step_extends h hr).txTrace⟩

/-- Settles O47: RESET reads the parameters and writes none, and every other event keeps them. -/
theorem parametersNeverChange : Obligations.ParametersNeverChange := by
  intro s t h
  by_cases hr : (takeEvent s).1 = some .reset
  · cases (step_of_event hr).symm.trans h
    rw [takeEvent_frame]
  · exact (step_extends h hr).cfg

/-! ### What writes the tuning registers -/

/-- `MINLEN`, `MAXLEN`, `MINGAP` and `MAXGAP` as before. -/
def SameTuning (s t : State) : Prop :=
  t.minLen = s.minLen ∧ t.maxLen = s.maxLen ∧ t.minGap = s.minGap ∧ t.maxGap = s.maxGap

theorem SameTuning.refl (s : State) : SameTuning s s := ⟨rfl, rfl, rfl, rfl⟩

theorem execTick_sameTuning {s t : State} (h : execTick s = .next t) : SameTuning s t := by
  cases (execTick_eq s).symm.trans h
  exact .refl s

theorem execEdge_sameTuning {s t : State} (h : execEdge s = .next t) : SameTuning s t := by
  obtain ⟨train, tIdx, rpt, pct, nCls, bs, ha⟩ := assemble_frame s.tick { s with tick := 0, ie := false }
  rw [execEdge_eq, ha] at h
  cases h
  exact .refl s

/-- A frame that is no TUNE, and every frame in the fixed variant, keeps the tuning registers (R187). -/
theorem runFrame_sameTuning {f : Frame} {s t : State} (h : runFrame f s = .next t)
    (hf : s.cfg.tunable = false ∨ ∀ text, f ≠ .tune text) : SameTuning s t := by
  cases f with
  | tune text =>
    have ht : s.cfg.tunable = false := hf.resolve_right fun hn => hn text rfl
    obtain ⟨-, -, hs⟩ := execTune_frame h
    rw [hs ht]
    exact .refl s
  | transmit code widths rep =>
    obtain ⟨gs, ht⟩ := execTransmit_frame h
    rw [ht]
    exact .refl s
  | ignored =>
    cases h
    exact .refl s

theorem execRxbyte_sameTuning {b : Byte} {s t : State} (h : execRxbyte b s = .next t)
    (hf : s.cfg.tunable = false ∨
      ¬ ∃ text, b = term ∧ decodeFrame (Memory.slice s.rxBuf s.rxIdx) = .ok (.tune text)) : SameTuning s t := by
  rcases execRxbyte_next_cases h with ⟨-, -, rfl⟩ | ⟨hb, f, u, hd, hu, rfl⟩
  · exact .refl s
  · have hs : SameTuning (storeByte b (enterHandler s)) u :=
      runFrame_sameTuning hu (hf.imp_right fun hn text hft => hn ⟨text, hb, by rw [hd, hft]⟩)
    exact hs

/-- Settles O48: TICK and EDGE keep the tuning registers, and so does every byte but the terminator of a TUNE frame in
the tunable variant. -/
theorem tuningRegistersChangeOnlyByTune : Obligations.TuningRegistersChangeOnlyByTune := by
  intro s t h hr hf
  have hs := takeEvent_frame s
  have key : SameTuning (takeEvent s).2 t := by
    rcases step_next_cases h with rfl | ⟨he, -⟩ | ht | ht | ⟨b, he, ht⟩
    · exact .refl _
    · exact absurd he hr
    · exact execTick_sameTuning ht
    · exact execEdge_sameTuning ht
    · refine execRxbyte_sameTuning ht ?_
      rw [hs]
      exact hf.imp_right fun hn ⟨text, hb, hd⟩ => hn ⟨text, by rw [he, hb], hd⟩
  rw [hs] at key
  exact key

/-! ### TICKs in a row -/

/-- Settles O5, by induction on the number of TICKs: the first either sends the line feed and restarts the count, or
counts on. -/
theorem ticksAccumulateAndBeat : Obligations.TicksAccumulateAndBeat := by
  intro n
  induction n with
  | zero =>
    intro s _ htick hhb
    simp [execAll, Nat.mod_eq_of_lt htick, Nat.mod_eq_of_lt hhb, Nat.div_eq_of_lt hhb]
  | succ n ih =>
    intro s hie htick hhb
    have hpos : 0 < s.cfg.heartbeatTicks := Nat.zero_lt_of_lt hhb
    have hfit : (s.tick + 1) % 2 ^ s.cfg.wTick < 2 ^ s.cfg.wTick := Nat.mod_lt _ (Nat.two_pow_pos _)
    have hcount : (s.tick + 1 + n) % 2 ^ s.cfg.wTick = (s.tick + (n + 1)) % 2 ^ s.cfg.wTick := by
      rw [Nat.add_assoc, Nat.add_comm 1 n]
    rw [List.replicate_succ, execAll, show exec .tick s = execTick s from rfl, execTick_eq]
    by_cases hb : s.hbCnt + 1 = s.cfg.heartbeatTicks
    · have hsum : s.hbCnt + (n + 1) = n + s.cfg.heartbeatTicks := by omega
      simp [hb, ih, hpos, hfit, hcount, hsum, hie, Nat.add_div_right n hpos, List.replicate_succ]
    · have hlt : s.hbCnt + 1 < s.cfg.heartbeatTicks := by omega
      have hsum : s.hbCnt + 1 + n = s.hbCnt + (n + 1) := by omega
      simp [hb, ih, hlt, hfit, hcount, hsum, hie]

end Sys2Proof.Machine
end

section
/-! PROOFS. The step-boundary invariant (10_state.md R40): RESET establishes it, and every other event keeps it. -/

namespace Sys2Proof.Machine

open Sys2Proof.Config

/-! ### RESET and power-on -/

/-- RESET establishes the invariant from every state with valid parameters. -/
theorem execReset_inv {s t : State} (hcfg : s.cfg.Valid) (h : execReset s = .next t) : t.Inv := by
  cases h
  obtain ⟨-, hhb, -, -, hrx, -, -, hminLen, hmaxLen, hminGap, hmaxGap⟩ := id hcfg
  exact {
    cfgValid := hcfg, ieSet := rfl, pinLow := rfl, noClass := rfl, tableClear := fun _ => rfl
    tIdxBound := Nat.zero_le _, rxIdxBound := hrx, rxNoTerm := fun _ hi => absurd hi (Nat.not_lt_zero _)
    hbBound := hhb, rptBound := Nat.zero_le _, tickFits := Nat.two_pow_pos _
    trainKept := fun _ hi => absurd hi (Nat.not_lt_zero _)
    minLenFits := hminLen, maxLenFits := hmaxLen, minGapFits := hminGap, maxGapFits := hmaxGap
    trainWf := Memory.nil_wf, pctWf := Memory.nil_wf, rxBufWf := Memory.nil_wf }

/-- The parameters of power-on are valid: the OPEN ones are 32-bit values (R7; log 2). -/
theorem powerOnParams_valid : powerOnParams.Valid :=
  ⟨by decide, by decide, by decide, by decide, by decide, by decide, by decide, defMinLen.isLt, defMaxLen.isLt,
    defMinGap.isLt, defMaxGap.isLt⟩

/-- Settles O2: RESET of the power-on state changes nothing, and RESET establishes the invariant. -/
theorem powerOnStateMeetsInv : Obligations.PowerOnStateMeetsInv :=
  execReset_inv (s := State.reset) powerOnParams_valid rfl

/-! ### TICK -/

theorem execTick_inv {s t : State} (hs : s.Inv) (h : execTick s = .next t) : t.Inv := by
  cases (execTick_eq s).symm.trans h
  have hbound := hs.hbBound
  refine { hs with ieSet := rfl, tickFits := Nat.mod_lt _ (Nat.two_pow_pos _), hbBound := ?_ }
  dsimp only
  split <;> omega

/-! ### EDGE

Inside the handler `IE` is down, so these lemmas speak of the state that leaving the handler would give. -/

theorem append_inv {w : Nat} {s : State} (hw : 8 < w ∧ w < 1600) (hs : (leaveHandler s).Inv) :
    (leaveHandler (append w s)).Inv := by
  have hwf : Memory.wf (append w s).train := append_wf (s := s) hs.trainWf
  have hidx := append_tIdx w s
  have hread := append_read w s
  rw [append_frame]
  refine { hs with trainWf := hwf, tIdxBound := ?_, trainKept := fun i hi => ?_ }
  · simp only [leaveHandler_tIdx, leaveHandler_cfg, hidx]
    split <;> omega
  · simp only [leaveHandler_train, leaveHandler_tIdx, hread, hidx] at hi ⊢
    split at hi
    · next hlt =>
      split
      · exact hw
      · exact hs.trainKept i (show i < s.tIdx by omega)
    · exact absurd hi (Nat.not_lt_zero _)

theorem terminate_inv {s : State} (hs : (leaveHandler s).Inv) : (leaveHandler (terminate s)).Inv := by
  have hcleared : ∀ i, i < 0 → minPw < Memory.read s.train i ∧ Memory.read s.train i < maxPw :=
    fun _ hi => absurd hi (Nat.not_lt_zero _)
  rcases terminate_cases s with ⟨-, he⟩ | ⟨-, -, -, he⟩ | ⟨-, -, -, he⟩
  · rw [he]
    exact { hs with tIdxBound := Nat.zero_le _, trainKept := hcleared }
  · rw [he]
    exact { hs with tIdxBound := Nat.zero_le _, trainKept := hcleared, rptBound := hs.tIdxBound }
  · obtain ⟨bs, hq⟩ := quantize_frame s.tIdx s
    have hrpt : (if s.cfg.rptClearOnAccept then 0 else s.rpt) ≤ s.cfg.trainCap := by
      split
      · exact Nat.zero_le _
      · exact hs.rptBound
    rw [he, hq]
    exact { hs with
      tIdxBound := Nat.zero_le _, trainKept := hcleared, rptBound := hrpt
      noClass := rfl, tableClear := fun _ => rfl, pctWf := Memory.nil_wf }

theorem assemble_inv {w : Nat} {s : State} (hs : (leaveHandler s).Inv) : (leaveHandler (assemble w s)).Inv := by
  rcases assemble_cases w s with ⟨-, he⟩ | ⟨hlo, hhi, -, he⟩ | ⟨hlo, hhi, -, he⟩ <;> rw [he]
  · exact hs
  · exact append_inv ⟨hlo, hhi⟩ hs
  · exact terminate_inv (append_inv ⟨hlo, hhi⟩ hs)

theorem execEdge_inv {s t : State} (hs : s.Inv) (h : execEdge s = .next t) : t.Inv := by
  cases (execEdge_eq s).symm.trans h
  exact assemble_inv { hs with ieSet := rfl, tickFits := Nat.two_pow_pos _ }

/-! ### RXBYTE

A frame runs with `IE` down and the terminator stored; these lemmas speak of the state that ending the handler would
give. -/

theorem parseDec_lt {t : List Byte} {w v : Nat} (h : parseDec t w = .ok v) : v < 2 ^ w := by
  unfold parseDec at h
  split at h
  · cases h
  · split at h
    · next hv => cases h; exact hv
    · cases h

theorem except_map_ok {ε α β : Type} {x : Except ε α} {f : α → β} {b : β} (h : x.map f = .ok b) :
    ∃ a, x = .ok a ∧ f a = b := by
  cases x with
  | error e => cases h
  | ok a => exact ⟨a, rfl, Except.ok.inj h⟩

theorem parseFields_lt {w : Nat} {fs : List (List Byte)} {vs : List (Option Nat)} (h : parseFields w fs = .ok vs) :
    ∀ v, some v ∈ vs → v < 2 ^ w := by
  induction fs generalizing vs with
  | nil => cases h; simp
  | cons f fs ih =>
    unfold parseFields at h
    split at h
    · obtain ⟨us, hus, rfl⟩ := except_map_ok h
      simpa using ih hus
    · split at h
      · cases h
      · next n hn =>
        obtain ⟨us, hus, rfl⟩ := except_map_ok h
        intro v hv
        rcases List.mem_cons.1 hv with heq | hv
        · cases heq
          exact parseDec_lt hn
        · exact ih hus v hv

theorem parseTune_lt {p : Params} {text : List Byte} {vs : List (Option Nat)} (h : parseTune p text = .ok vs) :
    ∀ v, some v ∈ vs → v < 2 ^ p.wCfg := by
  unfold parseTune at h
  dsimp only at h
  split at h
  · cases h
  · exact parseFields_lt h

theorem assignField_inv {i : Nat} {v : Option Nat} {s : State} (hv : ∀ n, v = some n → n < 2 ^ s.cfg.wCfg)
    (hs : (leaveHandler (clearRx s)).Inv) : (leaveHandler (clearRx (assignField i v s))).Inv := by
  unfold assignField
  split
  · exact { hs with minLenFits := hv _ rfl }
  · exact { hs with maxLenFits := hv _ rfl }
  · exact { hs with minGapFits := (Nat.div_le_self _ _).trans_lt (hv _ rfl) }
  · exact { hs with maxGapFits := (Nat.div_le_self _ _).trans_lt (hv _ rfl) }
  · exact hs

theorem assignFields_inv {i : Nat} {vs : List (Option Nat)} {s : State}
    (hvs : ∀ n, some n ∈ vs → n < 2 ^ s.cfg.wCfg) (hs : (leaveHandler (clearRx s)).Inv) :
    (leaveHandler (clearRx (assignFields i vs s))).Inv := by
  induction vs generalizing i s with
  | nil => exact hs
  | cons v vs ih =>
    have hcfg : (assignField i v s).cfg = s.cfg := by unfold assignField; split <;> rfl
    exact ih (fun n hn => by rw [hcfg]; exact hvs n (.tail _ hn))
      (assignField_inv (fun n hn => hvs n (hn ▸ .head _)) hs)

theorem runFrame_inv {f : Frame} {s t : State} (hs : (leaveHandler (clearRx s)).Inv) (h : runFrame f s = .next t) :
    (leaveHandler (clearRx t)).Inv := by
  cases f with
  | tune text =>
    rcases execTune_cases text s with ⟨-, he⟩ | ⟨-, r, -, he⟩ | ⟨-, vs, hp, he⟩ <;> cases he.symm.trans h
    · exact hs
    · exact { assignFields_inv (i := 0) (parseTune_lt hp) hs with }
  | transmit code widths rep =>
    obtain ⟨gs, ht⟩ := execTransmit_frame h
    rw [ht]
    exact { hs with pinLow := rfl, noClass := rfl, tableClear := fun _ => rfl, pctWf := Memory.nil_wf }
  | ignored =>
    cases h
    exact hs

theorem execRxbyte_inv {b : Byte} {s t : State} (hs : s.Inv) (h : execRxbyte b s = .next t) : t.Inv := by
  have hwf := Memory.write_wf hs.rxBufWf s.rxIdx b
  obtain ⟨-, -, -, -, hcap, -⟩ := id hs.cfgValid
  rcases execRxbyte_next_cases h with ⟨hlt, hb, rfl⟩ | ⟨-, f, u, -, hu, rfl⟩
  · refine { hs with ieSet := rfl, rxBufWf := hwf, rxIdxBound := ?_, rxNoTerm := fun i hi => ?_ }
    · dsimp only
      split <;> omega
    · have hi : i < s.rxIdx + 1 := by
        dsimp only at hi
        split at hi <;> omega
      rw [Memory.read_write]
      split
      · exact hb
      · exact hs.rxNoTerm i (by omega)
  · refine runFrame_inv ?_ hu
    exact { hs with
      ieSet := rfl, rxBufWf := hwf, rxIdxBound := hcap, rxNoTerm := fun _ hi => absurd hi (Nat.not_lt_zero _) }

/-- Settles O44: taking an event touches nothing the invariant speaks of, and the handler of each event keeps it. -/
theorem stepKeepsTheInvariant : Obligations.StepKeepsTheInvariant := by
  intro s t hs h
  have htaken : (takeEvent s).2.Inv := by
    rw [takeEvent_frame]
    exact { hs with }
  rcases step_next_cases h with rfl | ⟨-, ht⟩ | ht | ht | ⟨b, -, ht⟩
  · exact htaken
  · exact execReset_inv htaken.cfgValid ht
  · exact execTick_inv htaken ht
  · exact execEdge_inv htaken ht
  · exact execRxbyte_inv htaken ht

end Sys2Proof.Machine
end

section
/-! PROOFS. Elements at or beyond their index never matter (10_state.md R23, R30; 60_exceptions.md U8): an operation
that reads neither `TRAIN` nor `RXBUF` commutes with replacing their contents, and the rules that read one read it below
its index. -/

namespace Sys2Proof.Machine

open Sys2Proof.Config

/-! ### Replacing the contents of the two arrays -/

/-- The state with other contents of `TRAIN` and `RXBUF`. -/
@[simps] def State.withArrays (tr : Memory Nat) (rx : Memory Byte) (s : State) : State :=
  { s with train := tr, rxBuf := rx }

/-- Agreement where read, as a replacement whose contents read alike below the indices. -/
theorem agreeWhereRead_iff {s u : State} : s.AgreeWhereRead u ↔ ∃ tr rx, s = u.withArrays tr rx ∧
    (∀ i, i < u.tIdx → Memory.read tr i = Memory.read u.train i) ∧
    ∀ i, i < u.rxIdx → Memory.read rx i = Memory.read u.rxBuf i := by
  constructor
  · rintro ⟨hrest, htrain, hrx⟩
    refine ⟨s.train, s.rxBuf, hrest.symm, ?_⟩
    rw [← hrest] at htrain hrx
    exact ⟨htrain, hrx⟩
  · rintro ⟨tr, rx, rfl, htrain, hrx⟩
    exact ⟨rfl, htrain, hrx⟩

theorem State.AgreeWhereRead.refl (s : State) : s.AgreeWhereRead s := ⟨rfl, fun _ _ => rfl, fun _ _ => rfl⟩

/-- Arrays that read alike below `n` read alike below `n + 1` after the same write at `n`. -/
theorem Memory.read_write_congr {α : Type} [Inhabited α] [DecidableEq α] {m m' : Memory α} {n : Nat}
    (h : ∀ i, i < n → Memory.read m i = Memory.read m' i) (v : α) :
    ∀ i, i < n + 1 → Memory.read (Memory.write m n v) i = Memory.read (Memory.write m' n v) i := by
  intro i hi
  rw [Memory.read_write, Memory.read_write]
  split
  · rfl
  · exact h i (by omega)

/-! ### Operations that read neither array -/

/-! Each commutes with the replacement; a refusal stays the same refusal. -/

section

variable (tr : Memory Nat) (rx : Memory Byte)

theorem assignFields_withArrays (i : Nat) (vs : List (Option Nat)) (s : State) :
    assignFields i vs (s.withArrays tr rx) = (assignFields i vs s).withArrays tr rx := by
  induction vs generalizing i s with
  | nil => rfl
  | cons v vs ih =>
    have hone : assignField i v (s.withArrays tr rx) = (assignField i v s).withArrays tr rx := by
      unfold assignField
      split <;> rfl
    rw [assignFields, hone, ih, assignFields]

theorem symbol_withArrays (d : Nat) (s : State) :
    symbol d (s.withArrays tr rx) = (symbol d s).withArrays tr rx := by
  unfold symbol
  rw [State.withArrays_cfg]
  split <;> rfl

theorem replayOnce_withArrays (code : List Nat) (s : State) :
    replayOnce code (s.withArrays tr rx) = (replayOnce code s).withArrays tr rx := by
  induction code generalizing s with
  | nil => rfl
  | cons d ds ih =>
    have h := ih (symbol d s)
    rw [← symbol_withArrays] at h
    exact h

theorem replayLoop_withArrays (code : List Nat) (r : Nat) (s : State) :
    replayLoop code r (s.withArrays tr rx) = (replayLoop code r s).withArrays tr rx := by
  induction r generalizing s with
  | zero => rfl
  | succ r ih => rw [replayLoop, replayOnce_withArrays, ih, replayLoop]

theorem replay_withArrays (code : List Nat) (r : Nat) (s : State) :
    replay code r (s.withArrays tr rx) = (replay code r s).withArrays tr rx := by
  unfold replay
  rw [replayLoop_withArrays]
  rfl

theorem execTune_withArrays (text : List Byte) (s : State) :
    execTune text (s.withArrays tr rx) = onNext (execTune text s) (State.withArrays tr rx) := by
  unfold execTune
  rw [State.withArrays_cfg]
  split
  · split
    · rfl
    · exact congrArg (fun t => Host.Outcome.next (emitTuneAck t)) (assignFields_withArrays tr rx 0 _ s)
  · rfl

theorem execTransmit_withArrays (code widths rep : List Byte) (s : State) :
    execTransmit code widths rep (s.withArrays tr rx) =
      onNext (execTransmit code widths rep s) (State.withArrays tr rx) := by
  unfold execTransmit
  rw [State.withArrays_cfg]
  split
  · rfl
  · split
    · rfl
    · split
      · rfl
      · exact congrArg Host.Outcome.next (replay_withArrays tr rx _ _ (loadTable _ s))

theorem executeFrame_withArrays (body : List Byte) (s : State) :
    executeFrame body (s.withArrays tr rx) = onNext (executeFrame body s) (State.withArrays tr rx) := by
  unfold executeFrame
  split
  · next f _ =>
    cases f with
    | tune text => exact execTune_withArrays tr rx text s
    | transmit code widths rep => exact execTransmit_withArrays tr rx code widths rep s
    | ignored => rfl
  · rfl

theorem classify_withArrays (w : Nat) (s : State) :
    classify w (s.withArrays tr rx) = ((classify w s).1, (classify w s).2.withArrays tr rx) := by
  unfold classify allocate
  simp only [State.withArrays_cfg, State.withArrays_pct, State.withArrays_nCls]
  split
  · rfl
  · split <;> rfl

theorem quantizeWalk_withArrays (ws : List Nat) (i : Nat) (code : List Byte) (s : State) :
    quantizeWalk ws i code (s.withArrays tr rx) =
      ((quantizeWalk ws i code s).1, (quantizeWalk ws i code s).2.withArrays tr rx) := by
  induction ws generalizing i code s with
  | nil => rfl
  | cons w ws ih => rw [quantizeWalk, classify_withArrays, ih, quantizeWalk]

theorem takeEvent_withArrays (s : State) :
    takeEvent (s.withArrays tr rx) = ((takeEvent s).1, (takeEvent s).2.withArrays tr rx) := by
  unfold takeEvent
  simp only [State.withArrays_input, State.withArrays_choice]
  split
  · rfl
  · split
    · rfl
    · split <;> rfl

end

/-! ### EDGE: the quantizer reads `TRAIN` below `TIDX` -/

theorem quantize_withArrays {tr : Memory Nat} (rx : Memory Byte) {n : Nat} {s : State}
    (htr : ∀ i, i < n → Memory.read tr i = Memory.read s.train i) :
    quantize n (s.withArrays tr rx) = (quantize n s).withArrays tr rx := by
  unfold quantize
  rw [State.withArrays_train, Memory.slice_congr htr, quantizeWalk_withArrays]
  rfl

theorem append_agree {w : Nat} {s u : State} (h : s.AgreeWhereRead u) : (append w s).AgreeWhereRead (append w u) := by
  obtain ⟨tr, rx, rfl, htr, hrx⟩ := agreeWhereRead_iff.1 h
  unfold append
  simp only [State.withArrays_tIdx, State.withArrays_cfg]
  split
  · exact ⟨rfl, Memory.read_write_congr htr w, hrx⟩
  · exact ⟨rfl, fun _ hi => absurd hi (Nat.not_lt_zero _), hrx⟩

theorem terminate_withArrays {tr : Memory Nat} (rx : Memory Byte) {s : State}
    (htr : ∀ i, i < s.tIdx → Memory.read tr i = Memory.read s.train i) :
    terminate (s.withArrays tr rx) = (terminate s).withArrays tr rx := by
  unfold terminate
  simp only [State.withArrays_tIdx, State.withArrays_cfg, State.withArrays_rpt, quantize_withArrays rx htr]
  rw [show lengthOk s.tIdx (s.withArrays tr rx) = lengthOk s.tIdx s from rfl]
  split
  · split
    · split <;> rfl
    · rfl
  · rfl

theorem terminate_agree {s u : State} (h : s.AgreeWhereRead u) : (terminate s).AgreeWhereRead (terminate u) := by
  obtain ⟨tr, rx, rfl, htr, hrx⟩ := agreeWhereRead_iff.1 h
  obtain ⟨rpt, pct, nCls, bs, ht⟩ := terminate_frame u
  rw [terminate_withArrays rx htr, ht]
  exact ⟨rfl, fun _ hi => absurd hi (Nat.not_lt_zero _), hrx⟩

theorem assemble_agree {w : Nat} {s u : State} (h : s.AgreeWhereRead u) :
    (assemble w s).AgreeWhereRead (assemble w u) := by
  have happ := append_agree (w := w) h
  have hterm : terminates w (append w s) = terminates w (append w u) := by
    obtain ⟨tr, rx, he, -, -⟩ := agreeWhereRead_iff.1 happ
    rw [he]
    rfl
  unfold assemble
  dsimp only
  rw [hterm]
  split
  · split
    · exact terminate_agree happ
    · exact happ
  · exact h

/-! ### The handlers -/

/-- Both complete in agreeing states, or both are refused alike, or both fault alike. -/
def AgreeOutcome : Outcome → Outcome → Prop
  | .next s, .next u => s.AgreeWhereRead u
  | .refused r, .refused r' => r = r'
  | .fault f, .fault f' => f = f'
  | _, _ => False

theorem execReset_agree {s u : State} (h : s.AgreeWhereRead u) : AgreeOutcome (execReset s) (execReset u) := by
  obtain ⟨tr, rx, rfl, -, -⟩ := agreeWhereRead_iff.1 h
  exact State.AgreeWhereRead.refl _

theorem execTick_agree {s u : State} (h : s.AgreeWhereRead u) : AgreeOutcome (execTick s) (execTick u) := by
  obtain ⟨tr, rx, rfl, htr, hrx⟩ := agreeWhereRead_iff.1 h
  rw [execTick_eq, execTick_eq]
  exact ⟨rfl, htr, hrx⟩

theorem execEdge_agree {s u : State} (h : s.AgreeWhereRead u) : AgreeOutcome (execEdge s) (execEdge u) := by
  obtain ⟨tr, rx, rfl, htr, hrx⟩ := agreeWhereRead_iff.1 h
  have hin : State.AgreeWhereRead { u.withArrays tr rx with tick := 0, ie := false }
      { u with tick := 0, ie := false } := ⟨rfl, htr, hrx⟩
  obtain ⟨hrest, htrain, hrxBuf⟩ := assemble_agree (w := u.tick) hin
  rw [execEdge_eq, execEdge_eq]
  exact ⟨congrArg leaveHandler hrest, htrain, hrxBuf⟩

/-- A received frame leaves `TRAIN` and its index alone, and ending it empties `RXBUF` (R171). -/
theorem endFrame_agree {body : List Byte} {tr : Memory Nat} {rx : Memory Byte} {u : State}
    (htr : ∀ i, i < u.tIdx → Memory.read tr i = Memory.read u.train i) :
    AgreeOutcome (onNext (executeFrame body (u.withArrays tr rx)) (fun t => leaveHandler (clearRx t)))
      (onNext (executeFrame body u) (fun t => leaveHandler (clearRx t))) := by
  rw [executeFrame_withArrays]
  cases hx : executeFrame body u with
  | next t =>
    obtain ⟨f, -, hf⟩ := executeFrame_next hx
    have hk := runFrame_keeps hf
    rw [← hk.tIdx, ← hk.train] at htr
    exact ⟨rfl, htr, fun _ hi => absurd hi (Nat.not_lt_zero _)⟩
  | fault e => rfl
  | refused r => rfl

/-- RXBYTE writes `RXBUF` at its index and reads it below. -/
theorem execRxbyte_agree {b : Byte} {s u : State} (h : s.AgreeWhereRead u) :
    AgreeOutcome (execRxbyte b s) (execRxbyte b u) := by
  obtain ⟨tr, rx, rfl, htr, hrx⟩ := agreeWhereRead_iff.1 h
  by_cases hlt : u.rxIdx < u.cfg.rxBufCap
  · by_cases hb : b = term
    · subst hb
      rw [execRxbyte_term hlt, execRxbyte_term (s := u.withArrays tr rx) hlt]
      have hbody : Memory.slice rx u.rxIdx = Memory.slice u.rxBuf u.rxIdx := Memory.slice_congr hrx
      rw [State.withArrays_rxBuf, State.withArrays_rxIdx, hbody]
      exact endFrame_agree (u := storeByte term (enterHandler u)) htr
    · rw [execRxbyte_of_ne_term hlt hb, execRxbyte_of_ne_term (s := u.withArrays tr rx) hlt hb]
      refine ⟨rfl, htr, fun i hi => Memory.read_write_congr hrx b i ?_⟩
      simp only [State.withArrays_rxIdx, State.withArrays_cfg] at hi
      split at hi <;> omega
  · have hle := Nat.not_lt.1 hlt
    rw [execRxbyte_of_le hle, execRxbyte_of_le (s := u.withArrays tr rx) hle]
    rfl

/-! ### The step -/

theorem takeEvent_agree {s u : State} (h : s.AgreeWhereRead u) :
    (takeEvent s).1 = (takeEvent u).1 ∧ (takeEvent s).2.AgreeWhereRead (takeEvent u).2 := by
  obtain ⟨tr, rx, rfl, htr, hrx⟩ := agreeWhereRead_iff.1 h
  rw [takeEvent_withArrays, takeEvent_frame u]
  exact ⟨rfl, rfl, htr, hrx⟩

theorem step_agree {s u : State} (h : s.AgreeWhereRead u) : AgreeOutcome (step s) (step u) := by
  obtain ⟨hsame, hagree⟩ := takeEvent_agree h
  rcases takeEvent_cases u with he | he | he | he | ⟨b, he⟩
  · rw [step_of_noEvent (Prod.ext he rfl), step_of_noEvent (Prod.ext (hsame.trans he) rfl)]
    exact hagree
  all_goals rw [step_of_event he, step_of_event (hsame.trans he)]
  · exact execReset_agree hagree
  · exact execTick_agree hagree
  · exact execEdge_agree hagree
  · exact execRxbyte_agree hagree

/-- Settles O50: both steps take the same event, and every handler reads the two arrays below their indices. -/
theorem unreadElementsDoNotMatter : Obligations.UnreadElementsDoNotMatter :=
  fun _ _ => step_agree

end Sys2Proof.Machine
end

section
/-! PROOFS. The bytes of a list of numbers (00_scope.md R12; 30_encoding.md R74, R75, R77): digits and the list
separator, and the cut at a byte that is none of them. -/

namespace Sys2Proof.Machine

open Sys2Proof.Config

/-- A byte of a list of numbers: a digit or the list separator. -/
def isListByte (b : Byte) : Bool := isDigit b || b == lsep

theorem isListByte_of_digits {t : List Byte} (h : ∀ b ∈ t, isDigit b = true) : ∀ b ∈ t, isListByte b = true :=
  fun b hb => by simp [isListByte, h b hb]

theorem not_mem_of_isListByte {t : List Byte} {c : Byte} (ht : ∀ b ∈ t, isListByte b = true)
    (hc : isListByte c = false) : c ∉ t := by
  intro hm
  rw [ht c hm] at hc
  cases hc

theorem isDigit_of_decVal? {t : List Byte} {v : Nat} (h : decVal? t = some v) : ∀ b ∈ t, isDigit b = true :=
  ((decVal?_eq_some_iff t v).mp h).2.1

theorem isDigit_of_mem_dec {n : Nat} {b : Byte} (h : b ∈ dec n) : isDigit b = true :=
  isDigit_of_decVal? (decVal?_dec n) b h

theorem isDigit_of_decBelow {w : Nat} {t : List Byte} (h : decBelow w t = true) : ∀ b ∈ t, isDigit b = true := by
  cases hv : decVal? t with
  | none => simp [decBelow, hv] at h
  | some v => exact isDigit_of_decVal? hv

theorem join_isListByte {ps : List (List Byte)} (h : ∀ p ∈ ps, ∀ b ∈ p, isDigit b = true) :
    ∀ b ∈ join lsep ps, isListByte b = true := by
  induction ps with
  | nil => simp [join]
  | cons p ps ih =>
    obtain ⟨hp, hps⟩ := List.forall_mem_cons.mp h
    by_cases hne : ps = []
    · subst hne
      exact isListByte_of_digits hp
    · rw [join_cons lsep p hne]
      exact List.forall_mem_append.mpr ⟨isListByte_of_digits hp, List.forall_mem_cons.mpr ⟨rfl, ih hps⟩⟩

/-- A text whose pieces are digit strings is made of list bytes. -/
theorem isListByte_of_split {t : List Byte} (h : ∀ p ∈ split lsep t, ∀ b ∈ p, isDigit b = true) :
    ∀ b ∈ t, isListByte b = true := by
  obtain ⟨-, hjoin, -⟩ := split_spec lsep t
  rw [← hjoin]
  exact join_isListByte h

theorem split_of_not_mem {c : Byte} {t : List Byte} (h : c ∉ t) : split c t = [t] := by
  induction t with
  | nil => rfl
  | cons b bs ih =>
    obtain ⟨hb, hbs⟩ := List.ne_and_not_mem_of_not_mem_cons h
    exact split_cons_ne (Ne.symm hb) (ih hbs)

theorem split_append_cons {c : Byte} {t : List Byte} (h : c ∉ t) (rest : List Byte) :
    split c (t ++ c :: rest) = t :: split c rest := by
  induction t with
  | nil => exact split_cons_self c rest
  | cons b bs ih =>
    obtain ⟨hb, hbs⟩ := List.ne_and_not_mem_of_not_mem_cons h
    exact split_cons_ne (Ne.symm hb) (ih hbs)

/-- `split` undoes `join` on pieces without the separator (R12). -/
theorem split_join {c : Byte} {ps : List (List Byte)} (hne : ps ≠ []) (h : ∀ p ∈ ps, c ∉ p) :
    split c (join c ps) = ps := by
  induction ps with
  | nil => exact absurd rfl hne
  | cons p ps ih =>
    obtain ⟨hp, hps⟩ := List.forall_mem_cons.mp h
    by_cases hnil : ps = []
    · subst hnil
      exact split_of_not_mem hp
    · rw [join_cons c p hnil, split_append_cons hp, ih hnil hps]

theorem cutAt_append_cons {c : Byte} {t : List Byte} (h : c ∉ t) (rest : List Byte) :
    cutAt c (t ++ c :: rest) = some (t, rest) := by
  induction t with
  | nil => simp [cutAt]
  | cons b bs ih =>
    obtain ⟨hb, hbs⟩ := List.ne_and_not_mem_of_not_mem_cons h
    rw [List.cons_append, cutAt, if_neg (Ne.symm hb), ih hbs]
    rfl

end Sys2Proof.Machine
end

section
/-! PROOFS. Inbound frames (30_encoding.md R72 to R76): the markers of a body made of fields, the selection they lead
to, and the canonical spelling read back. -/

namespace Sys2Proof.Machine

open Sys2Proof.Config

/-! ### Markers -/

theorem markers_cons_of_not_letter {b : Byte} (h : isMarkerLetter b = false) (rest : List Byte) :
    markers (b :: rest) = markers rest := by
  cases rest <;> simp [markers, h]

theorem markers_cons_of_not_msep {b : Byte} {rest : List Byte} (h : rest.head? ≠ some msep) :
    markers (b :: rest) = markers rest := by
  cases rest with
  | nil => rfl
  | cons m after =>
    have hm : m ≠ msep := fun he => h (by rw [he]; rfl)
    simp [markers, hm, -BitVec.ofNat_eq_ofNat]

/-- A text without `:` holds no marker, and none begins at its last byte where no `:` follows it. -/
theorem markers_append {t rest : List Byte} (ht : msep ∉ t) (hr : rest.head? ≠ some msep) :
    markers (t ++ rest) = markers rest := by
  induction t with
  | nil => rfl
  | cons b bs ih =>
    obtain ⟨-, hbs⟩ := List.ne_and_not_mem_of_not_mem_cons ht
    have hhead : (bs ++ rest).head? ≠ some msep := by
      cases bs with
      | nil => exact hr
      | cons m after => simpa using Ne.symm (List.ne_and_not_mem_of_not_mem_cons hbs).1
    rw [List.cons_append, markers_cons_of_not_msep hhead, ih hbs]

theorem markers_letter_cons {l : Byte} (hl : isMarkerLetter l = true) (after : List Byte) :
    markers (l :: msep :: after) = (l, after) :: markers after := by
  rw [markers, hl, ← markers_cons_of_not_letter (b := msep) rfl after]
  rfl

/-- A field of a frame body (R75): the marker letter, `:` and the field text. -/
def fieldBytes (f : Byte × List Byte) : List Byte := f.1 :: msep :: f.2

/-- A field that reads back: a marker letter, and a text without `:` and `;`. -/
structure FieldClean (f : Byte × List Byte) : Prop where
  letter : isMarkerLetter f.1 = true
  noMsep : msep ∉ f.2
  noFsep : fsep ∉ f.2

theorem markers_fieldBytes_append {f : Byte × List Byte} (hf : FieldClean f) {rest : List Byte}
    (hr : rest.head? ≠ some msep) :
    markers (fieldBytes f ++ rest) = (f.1, f.2 ++ rest) :: markers rest := by
  change markers (f.1 :: msep :: (f.2 ++ rest)) = _
  rw [markers_letter_cons hf.letter, markers_append hf.noMsep hr]

theorem fieldText_of_not_mem {t : List Byte} (h : fsep ∉ t) : fieldText t = t :=
  List.takeWhile_eq_self_iff.mpr fun b hb => by simpa using ne_of_mem_of_not_mem hb h

theorem fieldText_append_fsep {t : List Byte} (h : fsep ∉ t) (rest : List Byte) :
    fieldText (t ++ fsep :: rest) = t := by
  have hall : ∀ b ∈ t, (b != fsep) = true := fun b hb => by simpa using ne_of_mem_of_not_mem hb h
  rw [fieldText, List.takeWhile_append_of_pos hall, List.takeWhile_cons_of_neg (by decide), List.append_nil]

/-- The markers of clean fields joined by `;` are those fields, each with its whole text (R73, R75). -/
theorem markers_join_fields {fields : List (Byte × List Byte)} (h : ∀ f ∈ fields, FieldClean f) :
    (markers (join fsep (fields.map fieldBytes))).map (fun m => (m.1, fieldText m.2)) = fields := by
  induction fields with
  | nil => rfl
  | cons f fs ih =>
    obtain ⟨hf, hfs⟩ := List.forall_mem_cons.mp h
    by_cases hnil : fs = []
    · subst hnil
      have hm := markers_fieldBytes_append hf (rest := []) (by simp)
      rw [List.append_nil, List.append_nil] at hm
      change (markers (fieldBytes f)).map _ = _
      rw [hm, List.map_cons, fieldText_of_not_mem hf.noFsep]
      rfl
    · have hhead : (fsep :: join fsep (fs.map fieldBytes)).head? ≠ some msep :=
        ne_of_beq_false rfl
      rw [List.map_cons, join_cons fsep _ (by simpa using hnil), markers_fieldBytes_append hf hhead, List.map_cons,
        fieldText_append_fsep hf.noFsep, markers_cons_of_not_letter rfl, ih hfs]

/-! ### The selection of a frame -/

theorem fieldTexts_eq (l : Byte) (ms : List (Byte × List Byte)) :
    fieldTexts l ms = ((ms.map (fun m => (m.1, fieldText m.2))).filter (fun f => f.1 == l)).map Prod.snd := by
  rw [fieldTexts, List.filter_map, List.map_map]
  rfl

theorem decodeFrame_tune (text : List Byte) : decodeFrame (fieldBytes (letterS, text)) = .ok (.tune text) := by
  have hm : markers (fieldBytes (letterS, text)) = (letterS, text) :: markers text := markers_letter_cons rfl text
  rw [decodeFrame, hm]
  rfl

theorem decodeFrame_of_fieldTexts {body c p r : List Byte} (hs : ∀ m ∈ markers body, m.1 ≠ letterS)
    (hc : fieldTexts letterC (markers body) = [c]) (hp : fieldTexts letterP (markers body) = [p])
    (hr : fieldTexts letterR (markers body) = [r]) : decodeFrame body = .ok (.transmit c p r) := by
  have hfind : (markers body).find? (fun m => m.1 == letterS) = none := by simpa using hs
  simp only [decodeFrame, hfind, hc, hp, hr]

theorem fieldClean_transmit {c p r : List Byte} (h : ∀ t ∈ [c, p, r], msep ∉ t ∧ fsep ∉ t) :
    ∀ f ∈ [(letterC, c), (letterP, p), (letterR, r)], FieldClean f := by
  simp only [List.forall_mem_cons] at h ⊢
  obtain ⟨hc, hp, hr, -⟩ := h
  exact ⟨⟨rfl, hc.1, hc.2⟩, ⟨rfl, hp.1, hp.2⟩, ⟨rfl, hr.1, hr.2⟩, by simp⟩

/-- The three fields of TRANSMIT decode in any order: the order moves only the markers (R73, R75). -/
theorem decodeFrame_of_perm {c p r : List Byte} {fields : List (Byte × List Byte)}
    (h : ∀ t ∈ [c, p, r], msep ∉ t ∧ fsep ∉ t)
    (hperm : fields.Perm [(letterC, c), (letterP, p), (letterR, r)]) :
    decodeFrame (join fsep (fields.map fieldBytes)) = .ok (.transmit c p r) := by
  have hms := markers_join_fields fun f hf => fieldClean_transmit h f (hperm.mem_iff.mp hf)
  have htexts : ∀ l t, ([(letterC, c), (letterP, p), (letterR, r)].filter (fun f => f.1 == l)).map Prod.snd = [t] →
      fieldTexts l (markers (join fsep (fields.map fieldBytes))) = [t] := by
    intro l t ht
    rw [fieldTexts_eq, hms, ← List.perm_singleton, ← ht]
    exact (hperm.filter _).map _
  refine decodeFrame_of_fieldTexts (fun m hm => ?_) (htexts _ _ rfl) (htexts _ _ rfl) (htexts _ _ rfl)
  have hmem : (m.1, fieldText m.2) ∈ fields := hms ▸ List.mem_map_of_mem hm
  have hletter : m.1 = letterC ∨ m.1 = letterP ∨ m.1 = letterR := by
    have := hperm.mem_iff.mp hmem
    simp only [List.mem_cons, Prod.mk.injEq, List.not_mem_nil, or_false] at this
    exact this.imp And.left (Or.imp And.left And.left)
  rcases hletter with he | he | he <;> rw [he] <;> decide

/-- Settles O20, from the markers of fields joined by `;`. -/
theorem transmitFieldsInAnyOrder : Obligations.TransmitFieldsInAnyOrder := by
  intro c p r fields hclean hperm
  exact decodeFrame_of_perm
    (fun t ht => ⟨fun hm => (hclean t ht _ hm).1 rfl, fun hm => (hclean t ht _ hm).2 rfl⟩) hperm

/-! ### The canonical spelling -/

theorem decodeInbound_append_term {body : List Byte} (h : term ∉ body) :
    decodeInbound (body ++ [term]) = decodeFrame body := by
  rw [decodeInbound, cutAt_append_cons h]

theorem isListByte_of_tuneTextOk {p : Params} {text : List Byte} (h : tuneTextOk p text = true) :
    ∀ b ∈ text, isListByte b = true := by
  simp only [tuneTextOk, Bool.and_eq_true, List.all_eq_true, Bool.or_eq_true, List.isEmpty_iff] at h
  obtain ⟨-, hfields⟩ := h
  refine isListByte_of_split fun f hf => ?_
  rcases hfields f hf with rfl | hd
  · simp
  · exact isDigit_of_decBelow hd

theorem isListByte_of_widthsOk {p : Params} {widths : List Byte} (h : widthsOk p widths = true) :
    ∀ b ∈ widths, isListByte b = true := by
  simp only [widthsOk, Bool.and_eq_true, List.all_eq_true] at h
  exact isListByte_of_split fun f hf => isDigit_of_decBelow (h.2 f hf)

theorem decodeInbound_encode_tune {text : List Byte} (h : ∀ b ∈ text, isListByte b = true) :
    decodeInbound (Frame.tune text).encode = .ok (.tune text) := by
  have hterm : term ∉ fieldBytes (letterS, text) := by
    have htext : term ∉ text := not_mem_of_isListByte h rfl
    simpa [fieldBytes] using htext
  rw [← decodeFrame_tune, ← decodeInbound_append_term hterm]
  rfl

theorem decodeInbound_encode_transmit {c p r : List Byte}
    (h : ∀ t ∈ [c, p, r], ∀ b ∈ t, isListByte b = true) :
    decodeInbound (Frame.transmit c p r).encode = .ok (.transmit c p r) := by
  have hsep : ∀ t ∈ [c, p, r], msep ∉ t ∧ fsep ∉ t := fun t ht =>
    ⟨not_mem_of_isListByte (h t ht) rfl, not_mem_of_isListByte (h t ht) rfl⟩
  have hterm : term ∉ join fsep ([(letterC, c), (letterP, p), (letterR, r)].map fieldBytes) := by
    have hfree : ∀ t ∈ [c, p, r], term ∉ t := fun t ht => not_mem_of_isListByte (h t ht) rfl
    simpa [join, fieldBytes] using hfree
  rw [← decodeFrame_of_perm hsep (List.Perm.refl _), ← decodeInbound_append_term hterm]
  simp [Frame.encode, join, fieldBytes]

end Sys2Proof.Machine
end

section
/-! PROOFS. Outbound units (30_encoding.md R77 to R79, R83): the first unit of a stream read back with all its
numbers, then the whole stream. -/

namespace Sys2Proof.Machine

open Sys2Proof.Config

theorem decVals?_map_dec (ns : List Nat) : decVals? (ns.map dec) = some ns := by
  induction ns with
  | nil => rfl
  | cons n ns ih => simp [decVals?, decVal?_dec, ih]

theorem isListByte_numbers (ns : List Nat) : ∀ b ∈ join lsep (ns.map dec), isListByte b = true :=
  join_isListByte (List.forall_mem_map.mpr fun _ _ _ hb => isDigit_of_mem_dec hb)

theorem split_numbers {ns : List Nat} (h : ns ≠ []) : split lsep (join lsep (ns.map dec)) = ns.map dec := by
  refine split_join (by simpa using h) (List.forall_mem_map.mpr fun n _ hm => ?_)
  exact absurd (isDigit_of_mem_dec hm) (by decide)

theorem numbers_ne_nil {ns : List Nat} (h : ns ≠ []) : join lsep (ns.map dec) ≠ [] := by
  intro hnil
  obtain ⟨n, ns, rfl⟩ := List.exists_cons_of_ne_nil h
  have hsplit := split_numbers h
  rw [hnil] at hsplit
  exact dec_ne_nil n (List.cons.inj hsplit).1.symm

/-- The width list of CAPTURED reads back, the empty one too. -/
theorem decVals?_numbers (ns : List Nat) :
    (if (join lsep (ns.map dec)).isEmpty then some [] else decVals? (split lsep (join lsep (ns.map dec)))) =
      some ns := by
  by_cases hns : ns = []
  · subst hns
    rfl
  · rw [if_neg (by simpa using numbers_ne_nil hns), split_numbers hns, decVals?_map_dec]

theorem decodeCaptured_numbers {code : List Byte} (h : ∀ b ∈ code, isDigit b = true) (ns : List Nat) :
    decodeCaptured (code ++ fsep :: letterP :: msep :: join lsep (ns.map dec)) = .ok (.captured code ns) := by
  have hfsep : fsep ∉ code := not_mem_of_isListByte (isListByte_of_digits h) rfl
  have hcode : code.all isDigit = true := List.all_eq_true.mpr h
  simp only [decodeCaptured, cutAt_append_cons hfsep, hcode, BEq.rfl, Bool.and_self, if_true, decVals?_numbers]

theorem decodeTuneAck_numbers (a b c d : Nat) :
    decodeTuneAck (join lsep ([a, b, c, d, version, minPw, maxPw].map dec)) = .ok (.tuneAck a b c d) := by
  rw [decodeTuneAck, split_numbers (List.cons_ne_nil _ _), decVals?_map_dec]
  rfl

/-- A unit that ends with the terminator is read by its letter, `c` or `v` (R83). -/
theorem decodeOut_of_body {l : Byte} {body : List Byte} {o : OutFrame} (hterm : term ∉ body)
    (h : l = letterC ∧ decodeCaptured body = .ok o ∨ l = letterV ∧ decodeTuneAck body = .ok o) (rest : List Byte) :
    decodeOut (l :: msep :: body ++ term :: rest) = .ok (o, rest) := by
  have hl : l ≠ hbByte ∧ term ≠ l := by
    rcases h with ⟨rfl, -⟩ | ⟨rfl, -⟩ <;> decide
  have hcut : cutAt term (l :: (msep :: body ++ term :: rest)) = some (l :: msep :: body, rest) :=
    cutAt_append_cons (List.not_mem_cons_of_ne_of_not_mem hl.2 (by simpa using hterm)) rest
  rw [List.cons_append, decodeOut, if_neg hl.1, hcut]
  rcases h with ⟨rfl, hd⟩ | ⟨rfl, hd⟩
  · change (decodeCaptured body).map _ = _
    rw [hd]
    rfl
  · change (decodeTuneAck body).map _ = _
    rw [hd]
    rfl

/-- An outbound unit the block can send: the code of CAPTURED is digits (R77). -/
def CodeDigits (o : OutFrame) : Prop := ∀ code ws, o = .captured code ws → code.all isDigit = true

/-- The first unit of a stream is read with all its numbers, and nothing after it is (R83). -/
theorem decodeOut_encode_append {o : OutFrame} (h : CodeDigits o) (rest : List Byte) :
    decodeOut (o.encode ++ rest) = .ok (o, rest) := by
  cases o with
  | captured code ns =>
    have hcode : ∀ b ∈ code, isDigit b = true := List.all_eq_true.mp (h code ns rfl)
    have hterm : term ∉ code ++ fsep :: letterP :: msep :: join lsep (ns.map dec) := by
      have hc : term ∉ code := not_mem_of_isListByte (isListByte_of_digits hcode) rfl
      have hn : term ∉ join lsep (ns.map dec) := not_mem_of_isListByte (isListByte_numbers ns) rfl
      exact List.not_mem_append hc (by simpa using hn)
    rw [← decodeOut_of_body hterm (.inl ⟨rfl, decodeCaptured_numbers hcode ns⟩) rest]
    simp [OutFrame.encode]
  | tuneAck a b c d =>
    have hterm : term ∉ join lsep ([a, b, c, d, version, minPw, maxPw].map dec) :=
      not_mem_of_isListByte (isListByte_numbers _) rfl
    rw [← decodeOut_of_body hterm (.inr ⟨rfl, decodeTuneAck_numbers a b c d⟩) rest, OutFrame.encode,
      List.append_assoc]
    rfl
  | heartbeat => rfl

theorem decodeOutStream_succ {fuel : Nat} {bytes rest : List Byte} {o : OutFrame}
    (h : decodeOut bytes = .ok (o, rest)) :
    decodeOutStream (fuel + 1) bytes = (decodeOutStream fuel rest).map (fun os => o :: os) := by
  cases bytes with
  | nil => cases h
  | cons b bs => simp only [decodeOutStream, h]

/-- Settles O35, by induction on the units: each is read off the front of the stream. -/
theorem outboundStreamParsesUniquely : Obligations.OutboundStreamParsesUniquely := by
  intro os
  induction os with
  | nil => intro fuel _ _; cases fuel <;> rfl
  | cons o os ih =>
    intro fuel hlen hcodes
    obtain ⟨ho, hos⟩ := List.forall_mem_cons.mp hcodes
    obtain ⟨fuel, rfl⟩ : ∃ k, fuel = k + 1 := ⟨fuel - 1, by rw [List.length_cons] at hlen; omega⟩
    rw [List.flatMap_cons, decodeOutStream_succ (decodeOut_encode_append ho _),
      ih fuel (Nat.le_of_succ_le_succ hlen) hos]
    rfl

end Sys2Proof.Machine
end

section
/-! PROOFS. Events and symbols (30_encoding.md R71, R79, R80), and the round trip over all four formats. -/

namespace Sys2Proof.Machine

open Sys2Proof.Config

/-- Settles O6, by the meaning of HEARTBEAT. -/
theorem heartbeatSendsLineFeed : Obligations.HeartbeatSendsLineFeed := fun _ => rfl

/-- Settles O31, by the bound that SYM tests. -/
theorem symAboveNineIsRefused : Obligations.SymAboveNineIsRefused :=
  fun _ _ hd => if_neg (Nat.not_lt.mpr hd)

/-- Settles O36: only the one-hot vectors decode, and each to its event. -/
theorem oneHotVectorsAreEvents : Obligations.OneHotVectorsAreEvents := by
  intro v b i
  constructor
  · intro h
    rcases decodeEvent_ok_vector h with hv | rfl | rfl | rfl
    · exact .inl hv
    · exact .inr (.inl ⟨rfl, (Except.ok.inj h).symm⟩)
    · exact .inr (.inr (.inl ⟨rfl, (Except.ok.inj h).symm⟩))
    · exact .inr (.inr (.inr ⟨rfl, (Except.ok.inj h).symm⟩))
  · rintro (⟨rfl, rfl⟩ | ⟨rfl, rfl⟩ | ⟨rfl, rfl⟩ | ⟨rfl, rfl⟩) <;> rfl

theorem decodeSym_ok_iff (b : Byte) (i : Instr) :
    decodeSym b = .ok i ↔ isDigit b = true ∧ i = .sym (b.extractLsb' 0 4) := by
  unfold decodeSym
  split
  · next h => simp [h, eq_comm]
  · next h => simp [h]

/-- Settles O37: the low nibble of a digit is its value, and `0x30 + d` is a digit for `d` up to 9. -/
theorem symbolsAreTheDigits : Obligations.SymbolsAreTheDigits := by
  intro b i
  rw [decodeSym_ok_iff, isDigit_iff]
  constructor
  · rintro ⟨hb, rfl⟩
    refine ⟨_, rfl, ?_, ?_⟩ <;> simp only [BitVec.extractLsb'_toNat, Nat.shiftRight_zero] <;> omega
  · rintro ⟨d, rfl, hd, hb⟩
    have hlow : b.extractLsb' 0 4 = d := by
      apply BitVec.eq_of_toNat_eq
      simp only [BitVec.extractLsb'_toNat, Nat.shiftRight_zero]
      omega
    exact ⟨by omega, by rw [hlow]⟩

/-- Settles O38, by running the decoders. -/
theorem writtenWordsDecode : Obligations.WrittenWordsDecode :=
  ⟨rfl, rfl, rfl, rfl, rfl, rfl, rfl, rfl, rfl, rfl⟩

/-! ### The round trip -/

theorem decode_frmIn_of_decodeInbound {bytes : List Byte} {f : Frame} (h : decodeInbound bytes = .ok f) :
    decode .frmIn bytes = .ok f.toInstr := by
  rw [decode, h]
  rfl

theorem decode_frmOut_encode {o : OutFrame} (h : CodeDigits o) : decode .frmOut o.encode = .ok o.toInstr := by
  have hout := decodeOut_encode_append h []
  rw [List.append_nil] at hout
  rw [decode, hout]

/-- Settles O34, by the formats: an event and a symbol as bytes, an inbound frame by its markers, an outbound unit
before an empty stream. -/
theorem decodeInvertsEncode : Obligations.DecodeInvertsEncode := by
  intro p i hi
  cases i with
  | reset => rfl
  | tick => rfl
  | edge => rfl
  | rxbyte b => rfl
  | tune text =>
    simp only [Instr.wellFormed, Bool.and_eq_true] at hi
    exact decode_frmIn_of_decodeInbound (decodeInbound_encode_tune (isListByte_of_tuneTextOk hi.1))
  | transmit code widths rep =>
    simp only [Instr.wellFormed, Bool.and_eq_true] at hi
    obtain ⟨⟨⟨hcode, hwidths⟩, hrep⟩, -⟩ := hi
    refine decode_frmIn_of_decodeInbound (decodeInbound_encode_transmit ?_)
    simp only [List.forall_mem_cons]
    exact ⟨isListByte_of_digits (List.all_eq_true.mp hcode), isListByte_of_widthsOk hwidths,
      isListByte_of_digits (isDigit_of_decBelow hrep), by simp⟩
  | ignored => rfl
  | sym d =>
    have hd : d.toNat ≤ 9 := by simpa [Instr.wellFormed] using hi
    exact (symbolsAreTheDigits _ _).mpr ⟨d, rfl, hd, digit_toNat (by omega)⟩
  | captured code => exact decode_frmOut_encode (o := .captured code []) fun _ _ he => (OutFrame.captured.inj he).1 ▸ hi
  | tuneAck => exact decode_frmOut_encode (o := .tuneAck 0 0 0 0) fun _ _ he => by cases he
  | heartbeat => rfl

end Sys2Proof.Machine
end

section
/-! PROOFS. TICK, the heartbeat and the frame of EDGE (40_tick_edge_heartbeat.md R100 to R102). -/

namespace Sys2Proof.Machine

open Sys2Proof.Config

/-! ### TICK -/

/-- Settles O3: `execTick_eq` is the whole of TICK. -/
theorem tickCountsOneTick : Obligations.TickCountsOneTick := execTick_eq

/-! ### EDGE as a frame -/

/-- EDGE completes, and writes nothing outside the assembler and the quantizer but `TICK` and `IE` (R102). -/
theorem execEdge_frame (s : State) :
    ∃ train tIdx rpt pct nCls serOut, execEdge s = .next
      { s with
        tick := 0, train := train, tIdx := tIdx, rpt := rpt, pct := pct, nCls := nCls
        serOut := serOut, ie := true } := by
  obtain ⟨train, tIdx, rpt, pct, nCls, bs, ha⟩ := assemble_frame s.tick { s with tick := 0, ie := false }
  exact ⟨train, tIdx, rpt, pct, nCls, s.serOut ++ bs, by rw [execEdge_eq, ha]; rfl⟩

/-- Settles O10: the frame of EDGE names every field that may differ. -/
theorem edgeCompletesAndClearsTick : Obligations.EdgeCompletesAndClearsTick := by
  intro s
  obtain ⟨train, tIdx, rpt, pct, nCls, serOut, he⟩ := execEdge_frame s
  exact ⟨_, he, rfl, rfl, rfl⟩

/-! ### What writes `HBCNT` -/

theorem execEdge_hbCnt {s t : State} (h : execEdge s = .next t) : t.hbCnt = s.hbCnt := by
  obtain ⟨train, tIdx, rpt, pct, nCls, serOut, he⟩ := execEdge_frame s
  cases he.symm.trans h
  rfl

theorem execRxbyte_hbCnt {b : Byte} {s t : State} (h : execRxbyte b s = .next t) : t.hbCnt = s.hbCnt := by
  rcases execRxbyte_next_cases h with ⟨-, -, rfl⟩ | ⟨-, f, u, -, hu, rfl⟩
  · rfl
  · exact (runFrame_keeps hu).hbCnt

/-- A step that takes neither TICK nor RESET keeps `HBCNT` (R101). -/
theorem step_hbCnt {s t : State} (h : step s = .next t) (htick : (takeEvent s).1 ≠ some .tick)
    (hreset : (takeEvent s).1 ≠ some .reset) : t.hbCnt = s.hbCnt := by
  have htaken : (takeEvent s).2.hbCnt = s.hbCnt := by rw [takeEvent_frame]
  rcases takeEvent_cases s with he | he | he | he | ⟨b, he⟩
  · cases (step_of_noEvent (Prod.ext he rfl)).symm.trans h
    exact htaken
  · exact absurd he hreset
  · exact absurd he htick
  · exact (execEdge_hbCnt ((step_of_event he).symm.trans h)).trans htaken
  · exact (execRxbyte_hbCnt ((step_of_event he).symm.trans h)).trans htaken

/-- Settles O4: TICK by its equation, every other event by what it keeps. -/
theorem heartbeatIsIndependent : Obligations.HeartbeatIsIndependent :=
  ⟨fun s => ⟨_, execTick_eq s, fun hb => ⟨if_pos hb, if_pos hb⟩, fun hb => ⟨if_neg hb, if_neg hb⟩⟩,
    fun _ _ => step_hbCnt⟩

end Sys2Proof.Machine
end

section
/-! PROOFS. The one-pass quantizer against its two-pass description (42_quantizer_encoder.md R141 to R148): the class
given to a width when it is met is the class it has in the finished table. -/

namespace Sys2Proof.Machine

open Sys2Proof.Config

/-! ### Representatives, one width at a time -/

/-- A width has its final class by a list of representatives: one of them matches it, or the table is full. -/
def classFixed (p : Params) (reps : List Nat) (w : Nat) : Bool :=
  reps.any (fun c => matchWidth p c w) || decide (nClasses ≤ reps.length)

/-- The representatives after one more width (R143, R144). -/
def addRep (p : Params) (reps : List Nat) (w : Nat) : List Nat := if classFixed p reps w then reps else reps ++ [w]

theorem representatives_eq (p : Params) (ws : List Nat) : representatives p ws = ws.foldl (addRep p) [] := rfl

theorem addRep_of_fixed {p : Params} {reps : List Nat} {w : Nat} (h : classFixed p reps w = true) :
    addRep p reps w = reps := if_pos h

theorem addRep_of_not_fixed {p : Params} {reps : List Nat} {w : Nat} (h : ¬ classFixed p reps w = true) :
    addRep p reps w = reps ++ [w] := if_neg h

theorem classFixed_iff {p : Params} {reps : List Nat} {w : Nat} :
    classFixed p reps w = true ↔ (∃ c ∈ reps, matchWidth p c w = true) ∨ nClasses ≤ reps.length := by
  simp [classFixed]

/-- Every width is close to itself, in both modes (R142). -/
theorem matchWidth_self (p : Params) (w : Nat) : matchWidth p w w = true := by
  cases h : p.tolMode with
  | symmetric => simp [matchWidth_symmetric h, absDiff]
  | original =>
    have hlt := Nat.mod_lt (w / 10) (Nat.two_pow_pos p.wTick)
    have hwrap : subMod p.wTick (w / 10) (w / 10) = 0 := by
      rw [subMod, ← Nat.mod_add_mod, Nat.add_sub_cancel' hlt.le, Nat.mod_self]
    rw [matchWidth_original h, hwrap]
    exact Nat.zero_le _

/-- A width that was met has its final class. -/
theorem classFixed_addRep_self (p : Params) (reps : List Nat) (w : Nat) : classFixed p (addRep p reps w) w = true := by
  by_cases h : classFixed p reps w = true
  · rw [addRep_of_fixed h, h]
  · rw [addRep_of_not_fixed h, classFixed_iff]
    exact .inl ⟨w, by simp, matchWidth_self p w⟩

/-- A final class stays as it is when another width is met: a new representative stands behind the old ones. -/
theorem addRep_keeps_class {p : Params} {reps : List Nat} {w : Nat} (h : classFixed p reps w = true) (v : Nat) :
    classFixed p (addRep p reps v) w = true ∧ classIn p (addRep p reps v) w = classIn p reps w := by
  by_cases hv : classFixed p reps v = true
  · rw [addRep_of_fixed hv]
    exact ⟨h, rfl⟩
  · have hfree : ¬ nClasses ≤ reps.length := fun hfull => hv (classFixed_iff.2 (.inr hfull))
    obtain ⟨c, hc, hm⟩ := (classFixed_iff.1 h).resolve_right hfree
    have hfound : (reps.findIdx? (fun c => matchWidth p c w)).isSome := by simpa using ⟨c, hc, hm⟩
    rw [addRep_of_not_fixed hv]
    refine ⟨classFixed_iff.2 (.inl ⟨c, by simp [hc], hm⟩), ?_⟩
    obtain ⟨x, hx⟩ := Option.isSome_iff_exists.1 hfound
    simp [classIn, List.findIdx?_append, hx]

/-- The class of a width that was met is its class in the finished table. -/
theorem classIn_foldl {p : Params} {reps : List Nat} {w : Nat} (h : classFixed p reps w = true) (vs : List Nat) :
    classIn p (vs.foldl (addRep p) reps) w = classIn p reps w := by
  induction vs generalizing reps with
  | nil => rfl
  | cons v vs ih =>
    obtain ⟨hfix, hsame⟩ := addRep_keeps_class h v
    exact (ih hfix).trans hsame

/-! ### CLASSIFY -/

/-- Searching the allocated entries of the table is searching the list of representatives. -/
theorem findIdx?_allocated (s : State) (q : Nat → Bool) :
    (allocated s).findIdx? q = (List.range s.nCls).find? (fun x => q (Memory.read s.pct x)) := by
  rw [allocated, Memory.slice, List.findIdx?_map]
  induction s.nCls with
  | zero => rfl
  | succ n ih =>
    rw [List.range_succ, List.findIdx?_append, List.find?_append, ih]
    by_cases h : q (Memory.read s.pct n) = true <;> simp [h]

@[simp] theorem allocated_length (s : State) : (allocated s).length = s.nCls := Memory.slice_length _ _

theorem classFixed_allocated_iff {s : State} {w : Nat} : classFixed s.cfg (allocated s) w = true ↔
    (∃ x, x < s.nCls ∧ matchWidth s.cfg (Memory.read s.pct x) w = true) ∨ nClasses ≤ s.nCls := by
  simp [classFixed_iff, allocated, Memory.slice]

/-- Writing the element behind the first `n` appends it to them. -/
theorem Memory.slice_write_succ (m : Memory Nat) (n v : Nat) :
    Memory.slice (Memory.write m n v) (n + 1) = Memory.slice m n ++ [v] := by
  have hold : Memory.slice (Memory.write m n v) n = Memory.slice m n :=
    Memory.slice_congr fun i hi => Memory.read_write_ne _ _ (Nat.ne_of_lt hi)
  rw [Memory.slice_succ, hold, Memory.read_write_self]

/-- A fresh entry stands behind the allocated ones. -/
theorem allocated_allocate (w : Nat) (s : State) :
    allocated { s with pct := Memory.write s.pct s.nCls w, nCls := s.nCls + 1 } = allocated s ++ [w] :=
  Memory.slice_write_succ s.pct s.nCls w

/-- CLASSIFY adds the width to the allocated representatives and answers its class among them. -/
theorem classify_spec (w : Nat) (s : State) :
    (classify w s).1 = classIn s.cfg (addRep s.cfg (allocated s) w) w ∧
      allocated (classify w s).2 = addRep s.cfg (allocated s) w := by
  rcases classify_cases w s with ⟨x, hx, he⟩ | ⟨hno, hfree, he⟩ | ⟨hno, hfull, he⟩
  · have hfix : classFixed s.cfg (allocated s) w = true := by
      obtain ⟨hm, hlt, -⟩ := List.find?_range_eq_some.1 hx
      exact classFixed_allocated_iff.2 (.inl ⟨x, by simpa using hlt, hm⟩)
    simp [he, addRep_of_fixed hfix, classIn, findIdx?_allocated, hx]
  · have hnew : ¬ classFixed s.cfg (allocated s) w = true := by
      rw [classFixed_allocated_iff]
      rintro (⟨x, hlt, hm⟩ | hfull)
      · simp [hno x hlt] at hm
      · omega
    have hnone : (allocated s).findIdx? (fun c => matchWidth s.cfg c w) = none := by
      simpa [findIdx?_allocated] using hno
    rw [addRep_of_not_fixed hnew, he]
    exact ⟨by simp [classIn, List.findIdx?_append, hnone, matchWidth_self], allocated_allocate w s⟩
  · have hfix : classFixed s.cfg (allocated s) w = true := classFixed_allocated_iff.2 (.inr hfull)
    have hnone : (allocated s).findIdx? (fun c => matchWidth s.cfg c w) = none := by
      simpa [findIdx?_allocated] using hno
    simp [he, addRep_of_fixed hfix, classIn, hnone]

@[simp] theorem classify_cfg (w : Nat) (s : State) : (classify w s).2.cfg = s.cfg := by rw [classify_frame]

/-- CLASSIFY answers the width's class in the finished table, whatever widths are still to come. -/
theorem classify_fst_eq_final (w : Nat) (s : State) (ws : List Nat) :
    (classify w s).1 = classIn s.cfg (ws.foldl (addRep s.cfg) (allocated (classify w s).2)) w := by
  obtain ⟨hclass, htable⟩ := classify_spec w s
  rw [hclass, htable, classIn_foldl (classFixed_addRep_self _ _ _)]

/-! ### The walk -/

/-- The walk leaves the representatives of the whole train allocated. -/
theorem quantizeWalk_allocated (ws : List Nat) (i : Nat) (code : List Byte) (s : State) :
    allocated (quantizeWalk ws i code s).2 = ws.foldl (addRep s.cfg) (allocated s) := by
  induction ws generalizing i code s with
  | nil => rfl
  | cons w ws ih => rw [quantizeWalk, ih, classify_cfg, (classify_spec w s).2, List.foldl_cons]

/-- From an even position on, the walk appends the final class of every second width. -/
theorem quantizeWalk_code {ws : List Nat} {i : Nat} (hi : i % 2 = 0) (code : List Byte) (s : State) :
    (quantizeWalk ws i code s).1 =
      code ++ (oddPositions ws).map (fun w => digit (classIn s.cfg (ws.foldl (addRep s.cfg) (allocated s)) w)) := by
  induction ws using oddPositions.induct generalizing i code s with
  | case1 a b rest ih =>
    have hodd : (i + 1) % 2 = 1 := by omega
    have hfinal := classify_fst_eq_final b (classify a s).2 rest
    have htable : allocated (classify b (classify a s).2).2 = addRep s.cfg (addRep s.cfg (allocated s) a) b := by
      rw [(classify_spec _ _).2, classify_cfg, (classify_spec a s).2]
    rw [htable, classify_cfg] at hfinal
    rw [quantizeWalk, quantizeWalk, ih (by omega)]
    simp [hi, hodd, hfinal, htable, oddPositions]
  | case2 ws hws =>
    match ws, hws with
    | [], _ => simp [quantizeWalk, oddPositions]
    | [a], _ => simp [quantizeWalk, oddPositions, hi]
    | a :: b :: rest, hws => exact absurd rfl (hws a b rest)

/-- QUANTIZE from an empty table sends the frame of the train's widths and leaves the table empty (R141). -/
theorem quantize_eq {s : State} (h : s.nCls = 0) (n : Nat) :
    quantize n s = { s with
      pct := [], nCls := 0, serOut := s.serOut ++ (trainFrame s.cfg (Memory.slice s.train n)).encode } := by
  have hempty : allocated s = [] := by simp [allocated, h, Memory.slice]
  have hcode := quantizeWalk_code (ws := Memory.slice s.train n) (i := 0) rfl [] s
  have htable := quantizeWalk_allocated (Memory.slice s.train n) 0 [] s
  rw [hempty, ← representatives_eq] at hcode htable
  rw [quantize, emitCaptured, hcode, htable, quantizeWalk_frame]
  rfl

end Sys2Proof.Machine
end

section
/-! PROOFS. The whole EDGE (40_tick_edge_heartbeat.md R102; 41_assembler_gap_filter.md R120 to R127). -/

namespace Sys2Proof.Machine

open Sys2Proof.Config

/-- EDGE's APPEND (R122): the index becomes the closed train's length, and the elements below it are that train. -/
theorem append_edge (s : State) :
    ∃ tr, append s.tick { s with tick := 0, ie := false } =
        { s with tick := 0, ie := false, train := tr, tIdx := closedLength s } ∧
      (∀ i, Memory.read tr i = if i = s.tIdx ∧ s.tIdx < s.cfg.trainCap then s.tick else Memory.read s.train i) ∧
      Memory.slice tr (closedLength s) = closedTrain s := by
  refine ⟨_, ?_, append_read s.tick { s with tick := 0, ie := false }, ?_⟩
  · rw [append_frame, append_tIdx]
    rfl
  · by_cases hlt : s.tIdx < s.cfg.trainCap
    · simp [closedLength, closedTrain, append, hlt, Memory.slice_write_succ]
    · simp [closedLength, closedTrain, hlt, Memory.slice]

/-- Settles O8, by the outcomes of ASSEMBLE and, for a terminator, those of TERMINATE. -/
theorem edgeRunsTheAssembler : Obligations.EdgeRunsTheAssembler := by
  intro s hcls hclear
  refine ⟨_, execEdge_eq s, ?_⟩
  obtain ⟨tr, happ, hread, hslice⟩ := append_edge s
  rcases assemble_cases s.tick { s with tick := 0, ie := false } with
    ⟨hw, he⟩ | ⟨hlo, hhi, hgap, he⟩ | ⟨hlo, hhi, hgap, he⟩
  · rw [he, if_pos hw]
    exact ⟨hclear, rfl⟩
  · have hkept : ¬ (s.tick ≤ 8 ∨ 1600 ≤ s.tick) := by omega
    rw [he, happ, if_neg hkept, if_pos hgap]
    exact ⟨hclear, hread, rfl⟩
  · have hkept : ¬ (s.tick ≤ 8 ∨ 1600 ≤ s.tick) := by omega
    rw [he, happ, if_neg hkept, if_neg (Nat.not_le.2 hgap)]
    rcases terminate_cases { s with tick := 0, ie := false, train := tr, tIdx := closedLength s } with
      ⟨hlen, ht⟩ | ⟨hmin, hmax, hrpt, ht⟩ | ⟨hmin, hmax, hrpt, ht⟩
    · rw [ht, if_pos hlen]
      exact ⟨hclear, hread, rfl⟩
    · rw [ht, if_neg (not_or.2 ⟨Nat.not_lt.2 hmin, Nat.not_lt.2 hmax⟩), if_pos hrpt]
      exact ⟨hclear, hread, rfl⟩
    · have hq := quantize_eq (s := { s with tick := 0, ie := false, train := tr, tIdx := closedLength s }) hcls
      rw [ht, hq, hslice, if_neg (not_or.2 ⟨Nat.not_lt.2 hmin, Nat.not_lt.2 hmax⟩), if_neg (not_not.2 hrpt), hcls]
      exact ⟨fun _ => rfl, hread, rfl⟩

end Sys2Proof.Machine
end

section
/-! PROOFS. EDGE by the fate of its width (41_assembler_gap_filter.md R121 to R126): noise, a width that extends the
train, and the only way to send. -/

namespace Sys2Proof.Machine

/-! ### Noise and kept widths -/

theorem assemble_of_noise {w : Nat} (h : w ≤ 8 ∨ 1600 ≤ w) (s : State) : assemble w s = s := by
  rcases assemble_cases w s with ⟨-, he⟩ | ⟨hlo, hhi, -⟩ | ⟨hlo, hhi, -⟩
  · exact he
  · omega
  · omega

theorem assemble_of_within_gap {w : Nat} {s : State} (hlo : 8 < w) (hhi : w < 1600) (hgap : w ≤ s.minGap) :
    assemble w s = append w s := by
  rcases assemble_cases w s with ⟨hw, -⟩ | ⟨-, -, -, he⟩ | ⟨-, -, hlt, -⟩
  · omega
  · exact he
  · omega

/-- Settles O7: noise leaves ASSEMBLE nothing to do, and a kept width that ends no train goes through APPEND. -/
theorem edgeFiltersNoise : Obligations.EdgeFiltersNoise := by
  intro s
  constructor
  · intro hnoise
    change execEdge s = _
    rw [execEdge_eq, assemble_of_noise (by omega)]
    rfl
  · rintro ⟨hlo, hhi⟩ hgap hfree
    have happ := assemble_of_within_gap (s := { s with tick := 0, ie := false }) hlo (Nat.lt_succ_of_le hhi) hgap
    refine ⟨_, execEdge_eq s, ?_, ?_⟩
    · rw [happ]
      exact (append_read _ _ _).trans (if_pos ⟨rfl, hfree⟩)
    · rw [happ]
      exact (append_tIdx _ _).trans (if_pos hfree)

/-! ### What sends -/

theorem append_serOut (w : Nat) (s : State) : (append w s).serOut = s.serOut := by rw [append_frame]

/-- TERMINATE sends only in its third outcome, the confirmed train of legal length (R125, R126). -/
theorem confirmed_of_terminate_sends {s : State} (h : (terminate s).serOut ≠ s.serOut) :
    s.minLen ≤ s.tIdx ∧ s.tIdx ≤ s.maxLen ∧ s.tIdx = s.rpt := by
  rcases terminate_cases s with ⟨-, he⟩ | ⟨-, -, -, he⟩ | ⟨hmin, hmax, hrpt, -⟩
  · exact absurd (by rw [he]) h
  · exact absurd (by rw [he]) h
  · exact ⟨hmin, hmax, hrpt⟩

/-- ASSEMBLE sends only through TERMINATE, for a kept width above `MINGAP` (R120, R123). -/
theorem terminator_of_assemble_sends {w : Nat} {s : State} (h : (assemble w s).serOut ≠ s.serOut) :
    8 < w ∧ w < 1600 ∧ s.minGap < w ∧ (terminate (append w s)).serOut ≠ (append w s).serOut := by
  rcases assemble_cases w s with ⟨-, he⟩ | ⟨-, -, -, he⟩ | ⟨hlo, hhi, hgap, he⟩
  · exact absurd (by rw [he]) h
  · exact absurd (by rw [he, append_serOut]) h
  · exact ⟨hlo, hhi, hgap, by rwa [append_serOut, ← he]⟩

/-- Settles O9: bytes come from ASSEMBLE only through TERMINATE, and from TERMINATE only for a confirmed train. -/
theorem onlyConfirmedTrainsAreSent : Obligations.OnlyConfirmedTrainsAreSent := by
  intro s t hexec hsent
  cases (execEdge_eq s).symm.trans hexec
  obtain ⟨hlo, hhi, hgap, hterm⟩ := terminator_of_assemble_sends (s := { s with tick := 0, ie := false }) hsent
  obtain ⟨tr, happ, -, -⟩ := append_edge s
  rw [happ] at hterm
  exact ⟨hlo, hhi, hgap, confirmed_of_terminate_sends hterm⟩

end Sys2Proof.Machine
end

section
/-! PROOFS. MATCH in both modes (42_quantizer_encoder.md R142), as a comparison of the tens. -/

namespace Sys2Proof.Machine

open Sys2Proof.Config

theorem absDiff_le_iff (a b k : Nat) : absDiff a b ≤ k ↔ a ≤ b + k ∧ b ≤ a + k := by
  unfold absDiff
  split <;> omega

theorem matchWidth_symmetric_iff {p : Params} (h : p.tolMode = .symmetric) (c w : Nat) :
    matchWidth p c w = true ↔ c / 10 ≤ w / 10 + 2 ∧ w / 10 ≤ c / 10 + 2 :=
  (matchWidth_symmetric h c w).trans (absDiff_le_iff _ _ _)

/-- The subtrahend is reduced modulo `2^w` first, which the remainder of the difference does not see. -/
theorem subMod_cast (w a b : Nat) : (subMod w a b : Int) = ((a : Int) - b) % 2 ^ w := by
  have hle : b % 2 ^ w ≤ 2 ^ w := (Nat.mod_lt b (Nat.two_pow_pos w)).le
  have hcast : (subMod w a b : Int) = ((a : Int) - (b : Int) % 2 ^ w + 2 ^ w) % 2 ^ w := by
    rw [subMod]
    push_cast [Nat.cast_sub hle]
    congr 1
    ring
  rw [hcast, Int.add_emod_right, Int.sub_emod_emod]

/-- Settles O14: the symmetric test by the bound on `absDiff`, the original one by the integer meaning of `subMod`. -/
theorem matchComparesTheTens : Obligations.MatchComparesTheTens := by
  intro p c w
  refine ⟨fun hsym => ?_, fun horig => ?_⟩
  · have hmatch := matchWidth_symmetric_iff hsym c w
    refine ⟨hmatch, fun hnear => hmatch.2 (by omega), fun hfar => ?_⟩
    exact Bool.eq_false_iff.2 fun htrue => by have := hmatch.1 htrue; omega
  · rw [matchWidth_original horig, ← subMod_cast]
    norm_cast

theorem subMod_of_le {w a b : Nat} (hle : b ≤ a) (ha : a < 2 ^ w) : subMod w a b = a - b := by
  rw [subMod, Nat.mod_eq_of_lt (hle.trans_lt ha), show a + (2 ^ w - b) = a - b + 2 ^ w by omega,
    Nat.add_mod_right, Nat.mod_eq_of_lt (by omega)]

theorem subMod_of_lt {w a b : Nat} (hlt : a < b) (hb : b < 2 ^ w) : subMod w a b = a + (2 ^ w - b) := by
  rw [subMod, Nat.mod_eq_of_lt hb, Nat.mod_eq_of_lt (by omega)]

/-- Settles O15: the tens are below 160, so a difference that wraps modulo `2^W_TICK` is far above 2. -/
theorem originalMatchIsOneSided : Obligations.OriginalMatchIsOneSided := by
  intro p c w horig hwidth hc hw
  have hpow : 2 ^ 8 ≤ 2 ^ p.wTick := Nat.pow_le_pow_right (by decide) hwidth
  rw [matchWidth_original horig]
  rcases Nat.lt_or_ge (c / 10) (w / 10) with hlt | hge
  · rw [subMod_of_lt hlt (by omega)]
    omega
  · rw [subMod_of_le hge (by omega)]
    omega

end Sys2Proof.Machine
end

section
/-! PROOFS. The classes of a train and its CAPTURED frame (42_quantizer_encoder.md R141 to R149). -/

namespace Sys2Proof.Machine

open Sys2Proof.Config

/-- Settles O11, which is the equation of QUANTIZE. -/
theorem quantizeEqualsTwoPasses : Obligations.QuantizeEqualsTwoPasses := fun n _ hcls => quantize_eq hcls n

/-! ### Any two classes -/

/-- What R143 and R144 keep of a table: at most ten classes, none of which matches a later one. -/
def ClassesApart (p : Params) (reps : List Nat) : Prop :=
  reps.length ≤ nClasses ∧ reps.Pairwise (fun c w => matchWidth p c w = false)

/-- A width joins only where no class matches it and a slot is free. -/
theorem addRep_keeps_apart {p : Params} {reps : List Nat} (h : ClassesApart p reps) (w : Nat) :
    ClassesApart p (addRep p reps w) := by
  by_cases hfix : classFixed p reps w = true
  · rwa [addRep_of_fixed hfix]
  · obtain ⟨-, hpair⟩ := h
    rw [addRep_of_not_fixed hfix]
    rw [classFixed_iff, not_or] at hfix
    obtain ⟨hno, hfree⟩ := hfix
    refine ⟨by simpa using hfree, List.pairwise_append.2 ⟨hpair, List.pairwise_singleton _ _, ?_⟩⟩
    simpa using hno

theorem representatives_apart (p : Params) (ws : List Nat) : ClassesApart p (representatives p ws) :=
  List.foldlRecOn ws (addRep p) ⟨Nat.zero_le _, .nil⟩ fun _ h w _ => addRep_keeps_apart h w

/-- Settles O12: a later class is matched by no earlier one, and in `SYMMETRIC` mode that is a distance of the tens. -/
theorem symmetricClassesAreApart : Obligations.SymmetricClassesAreApart := by
  intro p ws hsym
  obtain ⟨hlen, hpair⟩ := representatives_apart p ws
  refine ⟨hlen, fun i j hij hj => ?_⟩
  have hno := List.pairwise_iff_getElem.1 hpair i j (hij.trans hj) hj hij
  rw [Bool.eq_false_iff, Ne, matchWidth_symmetric_iff hsym] at hno
  omega

/-! ### The first width -/

theorem prefix_addRep (p : Params) (reps : List Nat) (w : Nat) : reps <+: addRep p reps w := by
  by_cases hfix : classFixed p reps w = true
  · rw [addRep_of_fixed hfix]
  · rw [addRep_of_not_fixed hfix]
    exact List.prefix_append _ _

/-- The classes already given stay in front. -/
theorem prefix_foldl_addRep (p : Params) (reps ws : List Nat) : reps <+: ws.foldl (addRep p) reps :=
  List.foldlRecOn ws (addRep p) List.prefix_rfl fun _ h w _ => h.trans (prefix_addRep p _ w)

theorem representatives_cons (p : Params) (w : Nat) (ws : List Nat) :
    representatives p (w :: ws) = ws.foldl (addRep p) [w] := rfl

theorem length_oddPositions {α : Type} : ∀ l : List α, (oddPositions l).length = l.length / 2
  | [] => by simp [oddPositions]
  | [_] => by simp [oddPositions]
  | _ :: b :: rest => by
    rw [oddPositions, List.length_cons, length_oddPositions rest, List.length_cons, List.length_cons]
    omega

/-- Settles O13: the table that holds the first width alone is a prefix of the finished one, and the class the width
has there is final. -/
theorem firstWidthIsClassZero : Obligations.FirstWidthIsClassZero := by
  intro p w ws
  have hself := matchWidth_self p w
  have hfix : classFixed p [w] w = true := classFixed_iff.2 (.inl ⟨w, by simp, hself⟩)
  refine ⟨?_, ?_, ?_⟩
  · obtain ⟨later, hlater⟩ := prefix_foldl_addRep p [w] ws
    rw [representatives_cons, ← hlater]
    rfl
  · rw [representatives_cons, classIn_foldl hfix]
    simp [classIn, hself]
  · rw [trainCode, List.length_map, length_oddPositions]

/-! ### CAPTURED -/

theorem allocated_eq_map (s : State) : allocated s = (List.range s.nCls).map (Memory.read s.pct) := rfl

theorem exec_captured (code : List Byte) (s : State) : exec (.captured code) s = .next (emitCaptured code s) := rfl

/-- Settles O16, by the meaning of CAPTURED and the bytes of its frame (R77). -/
theorem capturedListsTheTable : Obligations.CapturedListsTheTable := by
  intro code s
  rw [exec_captured, emitCaptured, allocated_eq_map, OutFrame.encode, List.map_map, List.map_map]
  rfl

end Sys2Proof.Machine
end

section
/-! PROOFS. The operand forms (43_protocol_codec.md R183, R190, R191, R193): what a list of numbers inside its grammar
parses to, and the refusal that the first number outside it gives. -/

namespace Sys2Proof.Machine

open Sys2Proof.Config

/-- A number inside its grammar: a digit string with a value below `2^w` (R12). -/
abbrev FitsWidth (w : Nat) (t : List Byte) : Prop := ∃ v, decVal? t = some v ∧ v < 2 ^ w

theorem decBelow_iff (w : Nat) (t : List Byte) : decBelow w t = true ↔ FitsWidth w t := by
  unfold decBelow
  split
  · next v hv => simp [FitsWidth, hv]
  · next hv => simp [FitsWidth, hv]

theorem parseDec_of_lt {t : List Byte} {w v : Nat} (h : decVal? t = some v) (hv : v < 2 ^ w) :
    parseDec t w = .ok v := (parseDec_of_some h w).trans (if_pos hv)

theorem parseDec_of_ge {t : List Byte} {w v : Nat} (h : decVal? t = some v) (hv : 2 ^ w ≤ v) :
    parseDec t w = .error .numberTooLarge := (parseDec_of_some h w).trans (if_neg (Nat.not_lt.2 hv))

/-! ### The fields of TUNE -/

/-- An empty field has no decimal value, so it parses to the absent value (R183). -/
theorem parseFields_cons_of_good {w : Nat} {f : List Byte} (h : f = [] ∨ FitsWidth w f) (fs : List (List Byte)) :
    parseFields w (f :: fs) = (parseFields w fs).map (fun vs => decVal? f :: vs) := by
  rcases h with rfl | ⟨v, hv, hlt⟩
  · rfl
  · have hne : f ≠ [] := ((decVal?_eq_some_iff f v).1 hv).1
    simp only [parseFields, List.isEmpty_iff, hne, if_false, parseDec_of_lt hv hlt, hv]

theorem parseFields_of_good {w : Nat} {fs : List (List Byte)} (h : ∀ f ∈ fs, f = [] ∨ FitsWidth w f) :
    parseFields w fs = .ok (fs.map decVal?) := by
  induction fs with
  | nil => rfl
  | cons f fs ih =>
    obtain ⟨hf, hfs⟩ := List.forall_mem_cons.1 h
    rw [parseFields_cons_of_good hf, ih hfs]
    rfl

theorem parseFields_of_bad {w : Nat} {good : List (List Byte)} (h : ∀ g ∈ good, g = [] ∨ FitsWidth w g)
    {f : List Byte} (hne : f ≠ []) {e : Refusal} (he : parseDec f w = .error e) (rest : List (List Byte)) :
    parseFields w (good ++ f :: rest) = .error e := by
  induction good with
  | nil => simp only [List.nil_append, parseFields, List.isEmpty_iff, hne, if_false, he]
  | cons g good ih =>
    obtain ⟨hg, hgood⟩ := List.forall_mem_cons.1 h
    rw [List.cons_append, parseFields_cons_of_good hg, ih hgood]
    rfl

theorem parseTune_of_few {p : Params} {text : List Byte} (h : (split lsep text).length ≤ 4) :
    parseTune p text = parseFields p.wCfg (split lsep text) := if_neg (Nat.not_lt.2 h)

theorem parseTune_of_many {p : Params} {text : List Byte} (h : 4 < (split lsep text).length) :
    parseTune p text = .error .tooManyFields := if_pos h

/-! ### The operands of TRANSMIT -/

theorem parseCode_of_digits {code : List Byte} (h : ∀ b ∈ code, isDigit b = true) :
    parseCode code = .ok (code.map digitVal) := if_pos (List.all_eq_true.2 h)

theorem parseCode_of_bad {code : List Byte} (h : ∃ b ∈ code, isDigit b = false) :
    parseCode code = .error .badCodeByte := by
  obtain ⟨b, hb, hd⟩ := h
  exact if_neg fun hall => by simp [List.all_eq_true.1 hall b hb] at hd

theorem parseWidthList_cons_of_good {w : Nat} {t : List Byte} (h : FitsWidth w t) (ts : List (List Byte)) :
    ∃ v, parseWidthList w (t :: ts) = (parseWidthList w ts).map (fun vs => v :: vs) := by
  obtain ⟨v, hv, hlt⟩ := h
  exact ⟨v, by simp only [parseWidthList, parseDec_of_lt hv hlt]⟩

theorem parseWidthList_of_good {w : Nat} {ts : List (List Byte)} (h : ∀ t ∈ ts, FitsWidth w t) :
    ∃ vs, parseWidthList w ts = .ok vs := by
  induction ts with
  | nil => exact ⟨[], rfl⟩
  | cons t ts ih =>
    obtain ⟨ht, hts⟩ := List.forall_mem_cons.1 h
    obtain ⟨v, hv⟩ := parseWidthList_cons_of_good ht ts
    obtain ⟨vs, hvs⟩ := ih hts
    exact ⟨v :: vs, by rw [hv, hvs]; rfl⟩

theorem parseWidthList_of_bad {w : Nat} {good : List (List Byte)} (h : ∀ g ∈ good, FitsWidth w g) {f : List Byte}
    {e : Refusal} (he : parseDec f w = .error e) (rest : List (List Byte)) :
    parseWidthList w (good ++ f :: rest) = .error e := by
  induction good with
  | nil => simp only [List.nil_append, parseWidthList, he]
  | cons g good ih =>
    obtain ⟨hg, hgood⟩ := List.forall_mem_cons.1 h
    obtain ⟨v, hv⟩ := parseWidthList_cons_of_good hg (good ++ f :: rest)
    rw [List.cons_append, hv, ih hgood]
    rfl

theorem parseWidths_of_few {p : Params} {widths : List Byte} (h : (split lsep widths).length ≤ nClasses) :
    parseWidths p widths = parseWidthList p.wPct (split lsep widths) := if_neg (Nat.not_lt.2 h)

theorem parseWidths_of_many {p : Params} {widths : List Byte} (h : nClasses < (split lsep widths).length) :
    parseWidths p widths = .error .tooManyWidths := if_pos h

end Sys2Proof.Machine
end

section
/-! PROOFS. TUNE and its acknowledgment (43_protocol_codec.md R183 to R187). -/

namespace Sys2Proof.Machine

open Sys2Proof.Config

/-! ### The acknowledgment -/

/-- The bytes of the acknowledgment, the three constants spelled out (R78, R186). -/
theorem emitTuneAck_eq (s : State) : emitTuneAck s =
    { s with serOut := s.serOut ++ ([0x76, 0x3A] ++ join 0x2C [dec s.minLen, dec s.maxLen,
        dec (s.minGap * 10 % 2 ^ s.cfg.wCfg), dec (s.maxGap * 10 % 2 ^ s.cfg.wCfg),
        [0x31], [0x38], [0x31, 0x36, 0x30, 0x30]] ++ [0x40]) } := rfl

/-- Settles O25, by the bytes of the acknowledgment. -/
theorem tuneAckPrintsTheRegisters : Obligations.TuneAckPrintsTheRegisters :=
  fun s => congrArg Host.Outcome.next (emitTuneAck_eq s)

/-! ### Assignment by position -/

theorem assignField_none (i : Nat) (s : State) : assignField i none s = s := by
  unfold assignField
  split <;> simp_all

/-- An absent field is an absent value: the assignments go on with the next position either way (R184). -/
theorem assignFields_uncons (i : Nat) (vs : List (Option Nat)) (s : State) :
    assignFields i vs s = assignFields (i + 1) vs.tail (assignField i vs.head?.join s) := by
  cases vs with
  | nil => exact (assignField_none i s).symm
  | cons v vs => rfl

theorem assignField_minLen (v : Option Nat) (s : State) :
    assignField 0 v s = { s with minLen := v.getD s.minLen } := by cases v <;> rfl

theorem assignField_maxLen (v : Option Nat) (s : State) :
    assignField 1 v s = { s with maxLen := v.getD s.maxLen } := by cases v <;> rfl

theorem assignField_minGap (v : Option Nat) (s : State) :
    assignField 2 v s = { s with minGap := (v.map (fun v => v / s.cfg.tuneGapDiv)).getD s.minGap } := by
  cases v <;> rfl

theorem assignField_maxGap (v : Option Nat) (s : State) :
    assignField 3 v s = { s with maxGap := (v.map (fun v => v / s.cfg.tuneGapDiv)).getD s.maxGap } := by
  cases v <;> rfl

/-- The assignments of at most four fields, register by register (R184). -/
theorem assignFields_eq {vs : List (Option Nat)} (h : vs.length ≤ 4) (s : State) :
    assignFields 0 vs s = { s with
      minLen := vs[0]?.join.getD s.minLen
      maxLen := vs[1]?.join.getD s.maxLen
      minGap := (vs[2]?.join.map (fun v => v / s.cfg.tuneGapDiv)).getD s.minGap
      maxGap := (vs[3]?.join.map (fun v => v / s.cfg.tuneGapDiv)).getD s.maxGap } := by
  have hend : vs.tail.tail.tail.tail = [] := List.eq_nil_of_length_eq_zero (by simp only [List.length_tail]; omega)
  rw [assignFields_uncons, assignFields_uncons, assignFields_uncons, assignFields_uncons, hend, assignField_minLen,
    assignField_maxLen, assignField_minGap, assignField_maxGap]
  simp only [List.head?_eq_getElem?, List.getElem?_tail]
  rfl

/-! ### TUNE -/

theorem execTune_of_ok {text : List Byte} {s : State} {vs : List (Option Nat)} (ht : s.cfg.tunable = true)
    (h : parseTune s.cfg text = .ok vs) : execTune text s = .next (emitTuneAck (assignFields 0 vs s)) := by
  simp only [execTune, ht, h, if_true]

theorem execTune_of_error {text : List Byte} {s : State} {e : Refusal} (ht : s.cfg.tunable = true)
    (h : parseTune s.cfg text = .error e) : execTune text s = .refused e := by
  simp only [execTune, ht, h, if_true]

theorem execTune_of_fixed {s : State} (h : s.cfg.tunable = false) (text : List Byte) : execTune text s = .next s := by
  simp only [execTune, h, Bool.false_eq_true, if_false]

/-- The value parsed at a position is the one the text assigns there (R184). -/
theorem getElem?_decVals_join (text : List Byte) (i : Nat) :
    ((split lsep text).map decVal?)[i]?.join = tuneValue text i := by
  rw [tuneValue, List.getElem?_map]
  cases (split lsep text)[i]? <;> rfl

/-- Settles O22: the fields parse to their decimal values, which are assigned by position and acknowledged. -/
theorem tuneAssignsByPosition : Obligations.TuneAssignsByPosition := by
  intro text s htun hfew hgood a b c d ha hb hc hd
  have hparse : parseTune s.cfg text = .ok ((split lsep text).map decVal?) :=
    (parseTune_of_few hfew).trans (parseFields_of_good hgood)
  have hassign := assignFields_eq (by simpa using hfew) s (vs := (split lsep text).map decVal?)
  simp only [getElem?_decVals_join] at hassign
  rw [← ha, ← hb, ← hc, ← hd] at hassign
  change execTune text s = _
  rw [execTune_of_ok htun hparse, hassign, emitTuneAck_eq]

/-- Settles O23: the number of fields is tested first, and the first bad field ends the parse. -/
theorem tuneRefusesBadText : Obligations.TuneRefusesBadText := by
  intro text s htun
  refine ⟨fun hmany => execTune_of_error htun (parseTune_of_many hmany), ?_⟩
  intro good rest f hsplit hfew hne hgood
  have hbad : ∀ e, parseDec f s.cfg.wCfg = .error e → exec (.tune text) s = .refused e := fun e he => by
    refine execTune_of_error htun ((parseTune_of_few hfew).trans ?_)
    rw [hsplit]
    exact parseFields_of_bad hgood hne he rest
  exact ⟨fun hn => hbad _ (parseDec_of_none hn _), fun v hv hge => hbad _ (parseDec_of_ge hv hge)⟩

/-- Settles O24: TUNE tests `TUNABLE` before it reads its text, and no other frame or event but RESET writes a tuning
register. -/
theorem fixedVariantIgnoresTune : Obligations.FixedVariantIgnoresTune :=
  fun s hfix => ⟨execTune_of_fixed hfix, fun t h hr => tuningRegistersChangeOnlyByTune s t h hr (.inl hfix)⟩

end Sys2Proof.Machine
end

section
/-! PROOFS. The refusals of TRANSMIT (43_protocol_codec.md R189): code, width list and repeat count in that order. -/

namespace Sys2Proof.Machine

open Sys2Proof.Config

theorem execTransmit_of_badCode {code : List Byte} {e : Refusal} (h : parseCode code = .error e)
    (widths rep : List Byte) (s : State) : execTransmit code widths rep s = .refused e := by
  simp only [execTransmit, h]

theorem execTransmit_of_badWidths {code widths : List Byte} {ds : List Nat} {s : State} {e : Refusal}
    (hc : parseCode code = .ok ds) (h : parseWidths s.cfg widths = .error e) (rep : List Byte) :
    execTransmit code widths rep s = .refused e := by
  simp only [execTransmit, hc, h]

theorem execTransmit_of_badRepeat {code widths rep : List Byte} {ds ws : List Nat} {s : State} {e : Refusal}
    (hc : parseCode code = .ok ds) (hw : parseWidths s.cfg widths = .ok ws)
    (h : parseRepeat s.cfg rep = .error e) : execTransmit code widths rep s = .refused e := by
  simp only [execTransmit, hc, hw, h]

theorem execTransmit_of_ok {code widths rep : List Byte} {ds ws : List Nat} {r : Nat} {s : State}
    (hc : parseCode code = .ok ds) (hw : parseWidths s.cfg widths = .ok ws) (hr : parseRepeat s.cfg rep = .ok r) :
    execTransmit code widths rep s = .next (replay ds r (loadTable ws s)) := by
  simp only [execTransmit, hc, hw, hr]

/-- Settles O29: each operand is parsed only after the ones before it, and the first bad number of a list ends its
parse. -/
theorem transmitRefusesBadOperands : Obligations.TransmitRefusesBadOperands := by
  intro code widths rep s
  refine ⟨fun hbad => execTransmit_of_badCode (parseCode_of_bad hbad) widths rep s, fun hdigits => ?_⟩
  have hcode := parseCode_of_digits hdigits
  refine ⟨fun hmany => execTransmit_of_badWidths hcode (parseWidths_of_many hmany) rep, ?_, ?_⟩
  · intro good rest f hsplit hfew hgood
    have hbad : ∀ e, parseDec f s.cfg.wPct = .error e → exec (.transmit code widths rep) s = .refused e :=
      fun e he => by
        refine execTransmit_of_badWidths hcode ((parseWidths_of_few hfew).trans ?_) rep
        rw [hsplit]
        exact parseWidthList_of_bad hgood he rest
    exact ⟨fun hn => hbad _ (parseDec_of_none hn _), fun v hv hge => hbad _ (parseDec_of_ge hv hge)⟩
  · intro hfew hgood
    obtain ⟨ws, hws⟩ := parseWidthList_of_good hgood
    have hwidths : parseWidths s.cfg widths = .ok ws := (parseWidths_of_few hfew).trans hws
    have hbad : ∀ e, parseRepeat s.cfg rep = .error e → exec (.transmit code widths rep) s = .refused e :=
      fun e he => execTransmit_of_badRepeat hcode hwidths he
    exact ⟨fun hn => hbad _ (parseDec_of_none hn _), fun v hv hge => hbad _ (parseDec_of_ge hv hge)⟩

end Sys2Proof.Machine
end

section
/-! PROOFS. RXBYTE, one byte at a time (43_protocol_codec.md R171): an ordinary byte is stored, the terminator runs the
frame before it, and reception leaves the receive side's registers alone. -/

namespace Sys2Proof.Machine

open Sys2Proof.Config

theorem exec_toInstr (f : Frame) (s : State) : exec f.toInstr s = runFrame f s := by cases f <;> rfl

theorem executeFrame_of_ok {body : List Byte} {f : Frame} (h : decodeFrame body = .ok f) (s : State) :
    executeFrame body s = runFrame f s := by
  simp only [executeFrame, h]

theorem executeFrame_of_error {body : List Byte} {e : DecodeError} (h : decodeFrame body = .error e) (s : State) :
    executeFrame body s = .refused .duplicateMarker := by
  simp only [executeFrame, h]

/-- Settles O17, by RXBYTE's equations for an ordinary byte and for the terminator. -/
theorem rxbyteHandlesEveryByte : Obligations.RxbyteHandlesEveryByte := by
  intro b s hlt
  refine ⟨Memory.write s.rxBuf s.rxIdx b, Memory.read_write _ _ _, fun hb => execRxbyte_of_ne_term hlt hb, ?_⟩
  rintro rfl
  have hexec := execRxbyte_term hlt
  refine ⟨fun f hf => ?_, fun e he => ?_⟩
  · rw [executeFrame_of_ok hf, ← exec_toInstr] at hexec
    exact hexec
  · rw [executeFrame_of_error he] at hexec
    exact hexec

/-- Settles O18: the byte is stored before anything else, and no frame that completes touches the receive side. -/
theorem rxbyteLeavesReceptionAlone : Obligations.RxbyteLeavesReceptionAlone := by
  intro b s t h
  have hother : ∀ i, i ≠ s.rxIdx → Memory.read (Memory.write s.rxBuf s.rxIdx b) i = Memory.read s.rxBuf i :=
    fun i hi => Memory.read_write_ne _ _ hi
  have hself := Memory.read_write_self s.rxBuf s.rxIdx b
  rcases execRxbyte_next_cases h with ⟨-, -, rfl⟩ | ⟨-, f, u, -, hu, rfl⟩
  · exact ⟨hother, hself, rfl, rfl, rfl, rfl, rfl, rfl, rfl, rfl, rfl⟩
  · have hk := runFrame_keeps hu
    have hbuf : (leaveHandler (clearRx u)).rxBuf = Memory.write s.rxBuf s.rxIdx b := hk.rxBuf
    rw [hbuf]
    exact ⟨hother, hself, hk.tick, hk.hbCnt, hk.train, hk.tIdx, hk.rpt, rfl, hk.cfg, hk.input, hk.choice⟩

/-- Settles O26: the terminator is stored, the frame does nothing, and the handler ends. -/
theorem ignoredFrameDoesNothing : Obligations.IgnoredFrameDoesNothing := by
  refine fun s => ⟨rfl, fun hlt hbody => ?_⟩
  have hexec := execRxbyte_term hlt
  rw [executeFrame_of_ok hbody] at hexec
  exact ⟨Memory.write s.rxBuf s.rxIdx term, Memory.read_write_self _ _ _, fun i hi => Memory.read_write_ne _ _ hi,
    hexec⟩

end Sys2Proof.Machine
end

section
/-! PROOFS. The markers of any body by their positions (30_encoding.md R73), and the selection of a frame by them
(43_protocol_codec.md R173). -/

namespace Sys2Proof.Machine

open Sys2Proof.Config

/-! ### Positions of a marker -/

/-- The positions at which a body has the marker `l`, ascending. -/
def markPositions (l : Byte) (body : List Byte) : List Nat :=
  (List.range body.length).filter (fun q => decide (MarkerAt body l q))

@[simp] theorem mem_markPositions {l : Byte} {body : List Byte} {q : Nat} :
    q ∈ markPositions l body ↔ MarkerAt body l q := by
  simp only [markPositions, List.mem_filter, List.mem_range, decide_eq_true_eq, and_iff_right_iff_imp]
  exact fun h => (List.getElem?_eq_some_iff.1 h.1).1

theorem markPositions_ascending (l : Byte) (body : List Byte) : (markPositions l body).Pairwise (· < ·) :=
  List.pairwise_lt_range.filter _

theorem markPositions_eq_nil_iff {l : Byte} {body : List Byte} :
    markPositions l body = [] ↔ ∀ q, ¬ MarkerAt body l q := by
  simp [List.eq_nil_iff_forall_not_mem]

theorem markPositions_eq_singleton {l : Byte} {body : List Byte} {q : Nat} (h : ∀ i, MarkerAt body l i ↔ i = q) :
    markPositions l body = [q] := by
  have hnodup : (markPositions l body).Nodup := (markPositions_ascending l body).imp Nat.ne_of_lt
  rw [← List.perm_singleton, List.perm_ext_iff_of_nodup hnodup (List.nodup_singleton q)]
  simpa using h

theorem head?_markPositions {l : Byte} {body : List Byte} {q : Nat} (hq : MarkerAt body l q)
    (hfirst : ∀ i, i < q → ¬ MarkerAt body l i) : (markPositions l body).head? = some q := by
  have hmem : q ∈ markPositions l body := mem_markPositions.2 hq
  have hasc := markPositions_ascending l body
  cases hp : markPositions l body with
  | nil => simp [hp] at hmem
  | cons p ps =>
    have hmark : MarkerAt body l p := mem_markPositions.1 (hp ▸ List.mem_cons_self)
    rw [hp] at hmem hasc
    rcases List.mem_cons.1 hmem with rfl | hlater
    · rfl
    · exact absurd hmark (hfirst p (List.rel_of_pairwise_cons hasc hlater))

theorem markPositions_cons (l b : Byte) (body : List Byte) :
    markPositions l (b :: body) =
      (if MarkerAt (b :: body) l 0 then [0] else []) ++ (markPositions l body).map (· + 1) := by
  have hlater : (fun q => decide (MarkerAt (b :: body) l q)) ∘ Nat.succ = fun q => decide (MarkerAt body l q) := rfl
  rw [markPositions, List.length_cons, List.range_succ_eq_map, List.filter_cons, List.filter_map, hlater]
  by_cases h : MarkerAt (b :: body) l 0
  · rw [if_pos h, if_pos (decide_eq_true h)]
    rfl
  · rw [if_neg h, if_neg (by simpa using h)]
    rfl

/-- A marker with letter `l` begins a body, or all of them stand in its tail. -/
theorem filter_markers_cons {l : Byte} (hl : isMarkerLetter l = true) (b : Byte) (body : List Byte) :
    (markers (b :: body)).filter (fun m => m.1 == l) =
      (if MarkerAt (b :: body) l 0 then [(l, body.drop 1)] else []) ++
        (markers body).filter (fun m => m.1 == l) := by
  cases body with
  | nil => simp [markers]
  | cons m after =>
    have hmark : MarkerAt (b :: m :: after) l 0 ↔ b = l ∧ m = msep := by simp [MarkerAt]
    simp only [hmark]
    by_cases hm : m = msep
    · subst hm
      rw [markers_cons_of_not_letter (b := msep) rfl]
      by_cases hb : isMarkerLetter b = true
      · rw [markers_letter_cons hb, List.filter_cons]
        by_cases hbl : b = l <;> simp [hbl]
      · have hbl : b ≠ l := fun he => hb (he ▸ hl)
        rw [markers_cons_of_not_letter (by simpa using hb), markers_cons_of_not_letter (b := msep) rfl,
          if_neg fun h => hbl h.1]
        rfl
    · rw [markers_cons_of_not_msep (by simpa using hm), if_neg fun h => hm h.2]
      rfl

/-- The markers with letter `l` that the decoder collects are those at its positions, each with the rest of the body
(R73). -/
theorem filter_markers {l : Byte} (hl : isMarkerLetter l = true) (body : List Byte) :
    (markers body).filter (fun m => m.1 == l) = (markPositions l body).map (fun q => (l, body.drop (q + 2))) := by
  induction body with
  | nil => rfl
  | cons b body ih =>
    rw [filter_markers_cons hl, ih, markPositions_cons, List.map_append, List.map_map]
    split <;> rfl

theorem fieldTexts_markers {l : Byte} (hl : isMarkerLetter l = true) (body : List Byte) :
    fieldTexts l (markers body) = (markPositions l body).map (fieldAt body) := by
  rw [fieldTexts, filter_markers hl, List.map_map]
  rfl

/-! ### The selection -/

theorem decodeFrame_of_tune {body : List Byte} {q : Nat} (h : (markPositions letterS body).head? = some q) :
    decodeFrame body = .ok (.tune (body.drop (q + 2))) := by
  have hfind : (markers body).find? (fun m => m.1 == letterS) = some (letterS, body.drop (q + 2)) := by
    rw [← List.head?_filter, filter_markers rfl, List.head?_map, h]
    rfl
  simp only [decodeFrame, hfind]

theorem letter_ne_of_no_mark {l : Byte} {body : List Byte} (hl : isMarkerLetter l = true)
    (h : ∀ q, ¬ MarkerAt body l q) : ∀ m ∈ markers body, m.1 ≠ l := by
  have hnone := filter_markers hl body
  rw [markPositions_eq_nil_iff.2 h, List.map_nil, List.filter_eq_nil_iff] at hnone
  simpa using hnone

/-- With no `s:`, each arm for a missing field gives IGNORED, and the arms with all three present are shut out. -/
theorem decodeFrame_of_missing {body : List Byte} (hs : ∀ m ∈ markers body, m.1 ≠ letterS)
    (h : fieldTexts letterC (markers body) = [] ∨ fieldTexts letterP (markers body) = [] ∨
      fieldTexts letterR (markers body) = []) : decodeFrame body = .ok .ignored := by
  have hfind : (markers body).find? (fun m => m.1 == letterS) = none := by simpa using hs
  simp only [decodeFrame, hfind]
  split <;> simp_all

/-- With no `s:` and no field missing, the arm of TRANSMIT asks for exactly one of each; only the last arm is left. -/
theorem decodeFrame_of_repeated {body : List Byte} (hs : ∀ m ∈ markers body, m.1 ≠ letterS)
    (hc : fieldTexts letterC (markers body) ≠ []) (hp : fieldTexts letterP (markers body) ≠ [])
    (hr : fieldTexts letterR (markers body) ≠ [])
    (h : 1 < (fieldTexts letterC (markers body)).length ∨ 1 < (fieldTexts letterP (markers body)).length ∨
      1 < (fieldTexts letterR (markers body)).length) : decodeFrame body = .error .duplicateMarker := by
  have hfind : (markers body).find? (fun m => m.1 == letterS) = none := by simpa using hs
  simp only [decodeFrame, hfind]
  split <;> simp_all

theorem isMarkerLetter_field {l : Byte} (h : l = letterC ∨ l = letterP ∨ l = letterR) : isMarkerLetter l = true := by
  rcases h with rfl | rfl | rfl <;> rfl

theorem fieldTexts_markers_ne_nil {l : Byte} (hl : isMarkerLetter l = true) {body : List Byte}
    (h : ∃ q, MarkerAt body l q) : fieldTexts l (markers body) ≠ [] := by
  obtain ⟨q, hq⟩ := h
  rw [fieldTexts_markers hl]
  exact List.ne_nil_of_mem (List.mem_map_of_mem (mem_markPositions.2 hq))

theorem one_lt_length_fieldTexts_markers {l : Byte} (hl : isMarkerLetter l = true) {body : List Byte} {q i : Nat}
    (hq : MarkerAt body l q) (hi : MarkerAt body l i) (hne : q ≠ i) : 1 < (fieldTexts l (markers body)).length := by
  rw [fieldTexts_markers hl, List.length_map]
  rw [← mem_markPositions] at hq hi
  match markPositions l body, hq, hi with
  | [a], hq, hi => exact absurd ((List.mem_singleton.1 hq).trans (List.mem_singleton.1 hi).symm) hne
  | _ :: _ :: ps, _, _ => exact Nat.succ_lt_succ ps.length.succ_pos

/-- Settles O19: the decoder collects each letter's markers by position, so the selection reads the positions. -/
theorem frameSelectionFollowsTheMarkers : Obligations.FrameSelectionFollowsTheMarkers := by
  refine fun body => ⟨fun q hq hfirst => decodeFrame_of_tune (head?_markPositions hq hfirst), fun hno => ?_⟩
  have hs : ∀ m ∈ markers body, m.1 ≠ letterS := letter_ne_of_no_mark rfl hno
  refine ⟨fun l hl hmissing => ?_, fun hc hp hr l q i hl hq hi hlt => ?_, fun c p r hc hp hr => ?_⟩
  · have hnil : fieldTexts l (markers body) = [] := by
      rw [fieldTexts_markers (isMarkerLetter_field hl), markPositions_eq_nil_iff.2 hmissing, List.map_nil]
    refine decodeFrame_of_missing hs ?_
    rcases hl with rfl | rfl | rfl
    · exact .inl hnil
    · exact .inr (.inl hnil)
    · exact .inr (.inr hnil)
  · have htwice := one_lt_length_fieldTexts_markers (isMarkerLetter_field hl) hq hi (Nat.ne_of_lt hlt)
    refine decodeFrame_of_repeated hs (fieldTexts_markers_ne_nil rfl hc) (fieldTexts_markers_ne_nil rfl hp)
      (fieldTexts_markers_ne_nil rfl hr) ?_
    rcases hl with rfl | rfl | rfl
    · exact .inl htwice
    · exact .inr (.inl htwice)
    · exact .inr (.inr htwice)
  · have hone : ∀ l a, isMarkerLetter l = true → (∀ q, MarkerAt body l q ↔ q = a) →
        fieldTexts l (markers body) = [fieldAt body a] := fun l a hl ha => by
      rw [fieldTexts_markers hl, markPositions_eq_singleton ha, List.map_singleton]
    exact decodeFrame_of_fieldTexts hs (hone _ _ rfl hc) (hone _ _ rfl hp) (hone _ _ rfl hr)

end Sys2Proof.Machine
end

section
/-! PROOFS. A frame received whole (43_protocol_codec.md R171 to R173): no frame reads the receive side, so the one that
the terminator runs does what it does on the state before its first byte. -/

namespace Sys2Proof.Machine

open Sys2Proof.Config

/-! ### Operations that do not read the receive side -/

/-- The state with other contents of `RXBUF`, `RXIDX` and `IE`, all that RXBYTE itself writes (R171). -/
@[simps] def State.withReception (rx : Memory Byte) (idx : Nat) (ie : Bool) (s : State) : State :=
  { s with rxBuf := rx, rxIdx := idx, ie := ie }

section

variable (rx : Memory Byte) (idx : Nat) (ie : Bool)

theorem assignFields_withReception (i : Nat) (vs : List (Option Nat)) (s : State) :
    assignFields i vs (s.withReception rx idx ie) = (assignFields i vs s).withReception rx idx ie := by
  induction vs generalizing i s with
  | nil => rfl
  | cons v vs ih =>
    have hone : assignField i v (s.withReception rx idx ie) = (assignField i v s).withReception rx idx ie := by
      unfold assignField
      split <;> rfl
    rw [assignFields, hone, ih, assignFields]

theorem symbol_withReception (d : Nat) (s : State) :
    symbol d (s.withReception rx idx ie) = (symbol d s).withReception rx idx ie := by
  unfold symbol
  rw [State.withReception_cfg]
  split <;> rfl

theorem replayOnce_withReception (code : List Nat) (s : State) :
    replayOnce code (s.withReception rx idx ie) = (replayOnce code s).withReception rx idx ie :=
  List.foldl_hom (State.withReception rx idx ie) fun s d => symbol_withReception rx idx ie d s

theorem replayLoop_withReception (code : List Nat) (r : Nat) (s : State) :
    replayLoop code r (s.withReception rx idx ie) = (replayLoop code r s).withReception rx idx ie := by
  induction r generalizing s with
  | zero => rfl
  | succ r ih => rw [replayLoop, replayOnce_withReception, ih, replayLoop]

theorem execTune_withReception (text : List Byte) (s : State) :
    execTune text (s.withReception rx idx ie) = onNext (execTune text s) (State.withReception rx idx ie) := by
  unfold execTune
  rw [State.withReception_cfg]
  split
  · split
    · rfl
    · exact congrArg (fun t => Host.Outcome.next (emitTuneAck t)) (assignFields_withReception rx idx ie 0 _ s)
  · rfl

theorem execTransmit_withReception (code widths rep : List Byte) (s : State) :
    execTransmit code widths rep (s.withReception rx idx ie) =
      onNext (execTransmit code widths rep s) (State.withReception rx idx ie) := by
  unfold execTransmit
  rw [State.withReception_cfg]
  split
  · rfl
  · split
    · rfl
    · split
      · rfl
      · exact congrArg (fun t => Host.Outcome.next (clearTable { t with txPin := false }))
          (replayLoop_withReception rx idx ie _ _ (loadTable _ s))

theorem executeFrame_withReception (body : List Byte) (s : State) :
    executeFrame body (s.withReception rx idx ie) = onNext (executeFrame body s) (State.withReception rx idx ie) := by
  unfold executeFrame
  split
  · next f _ =>
    cases f with
    | tune text => exact execTune_withReception rx idx ie text s
    | transmit code widths rep => exact execTransmit_withReception rx idx ie code widths rep s
    | ignored => rfl
  · rfl

end

theorem onNext_onNext (o : Outcome) (f g : State → State) :
    onNext (onNext o f) g = onNext o (fun s => g (f s)) := by cases o <;> rfl

/-! ### The bytes of a frame -/

theorem execAll_cons_of_next {i : Instr} {s t : State} (h : exec i s = .next t) (is : List Instr) :
    execAll (i :: is) s = execAll is t := by
  simp only [execAll, h]

theorem execAll_singleton (i : Instr) (s : State) : execAll [i] s = exec i s := by
  unfold execAll
  split <;> simp_all [execAll]

/-- The bytes of a body and the terminator, received one by one, run the frame of the bytes received before and these,
on the state before them; then the handler ends (R171). -/
theorem execAll_body_term (body : List Byte) {s : State} (hterm : term ∉ body)
    (hfit : s.rxIdx + body.length < s.cfg.rxBufCap) :
    ∃ m, execAll ((body ++ [term]).map Instr.rxbyte) s =
      onNext (executeFrame (Memory.slice s.rxBuf s.rxIdx ++ body) s) (State.withReception m 0 true) := by
  induction body generalizing s with
  | nil =>
    refine ⟨Memory.write s.rxBuf s.rxIdx term, ?_⟩
    have hrun := executeFrame_withReception (Memory.write s.rxBuf s.rxIdx term) (s.rxIdx + 1) false
      (Memory.slice s.rxBuf s.rxIdx) s
    change execAll [Instr.rxbyte term] s = _
    rw [execAll_singleton, List.append_nil]
    exact (execRxbyte_term hfit).trans ((congrArg (onNext · _) hrun).trans (onNext_onNext _ _ _))
  | cons b body ih =>
    obtain ⟨hb, hbody⟩ := List.ne_and_not_mem_of_not_mem_cons hterm
    rw [List.length_cons] at hfit
    have hstored : exec (.rxbyte b) s =
        .next (s.withReception (Memory.write s.rxBuf s.rxIdx b) (s.rxIdx + 1) true) := by
      have hexec := execRxbyte_of_ne_term (by omega) (Ne.symm hb) (s := s)
      rwa [if_neg (by omega)] at hexec
    have hslice : Memory.slice (Memory.write s.rxBuf s.rxIdx b) (s.rxIdx + 1) =
        Memory.slice s.rxBuf s.rxIdx ++ [b] := by
      rw [Memory.slice_succ, slice_write_at, Memory.read_write_self]
    obtain ⟨m, hm⟩ := ih (s := s.withReception (Memory.write s.rxBuf s.rxIdx b) (s.rxIdx + 1) true) hbody
      (by simp only [State.withReception_rxIdx, State.withReception_cfg]; omega)
    refine ⟨m, (execAll_cons_of_next hstored _).trans (hm.trans ?_)⟩
    rw [State.withReception_rxBuf, State.withReception_rxIdx, hslice, List.append_assoc, executeFrame_withReception,
      onNext_onNext]
    rfl

/-! ### Well-formed frames -/

theorem eq_append_of_cutAt {t : Byte} {bs before after : List Byte} (h : cutAt t bs = some (before, after)) :
    bs = before ++ t :: after ∧ t ∉ before := by
  induction bs generalizing before with
  | nil => cases h
  | cons b bs ih =>
    rw [cutAt] at h
    split at h
    · next hb => cases h; simp [hb]
    · next hb =>
      obtain ⟨⟨c, d⟩, hc, he⟩ := Option.map_eq_some_iff.1 h
      cases he
      obtain ⟨rfl, hn⟩ := ih hc
      exact ⟨rfl, List.not_mem_cons_of_ne_of_not_mem (Ne.symm hb) hn⟩

theorem body_of_decodeInbound {bytes : List Byte} {f : Frame} (h : decodeInbound bytes = .ok f) :
    ∃ body, bytes = body ++ [term] ∧ term ∉ body ∧ decodeFrame body = .ok f := by
  unfold decodeInbound at h
  split at h
  · next body hcut =>
    obtain ⟨hbytes, hterm⟩ := eq_append_of_cutAt hcut
    exact ⟨body, hbytes, hterm, h⟩
  · cases h

theorem execTune_of_textOk {text : List Byte} {s : State} (h : tuneTextOk s.cfg text = true) :
    ∃ t, execTune text s = .next t := by
  cases htun : s.cfg.tunable with
  | false => exact ⟨s, execTune_of_fixed htun text⟩
  | true =>
    simp only [tuneTextOk, Bool.and_eq_true, decide_eq_true_eq, List.all_eq_true, Bool.or_eq_true, List.isEmpty_iff,
      decBelow_iff] at h
    obtain ⟨hfew, hgood⟩ := h
    exact ⟨_, execTune_of_ok htun ((parseTune_of_few hfew).trans (parseFields_of_good hgood))⟩

theorem execTransmit_of_operandsOk {code widths rep : List Byte} {s : State} (hcode : codeOk code = true)
    (hwidths : widthsOk s.cfg widths = true) (hrep : repOk s.cfg rep = true) :
    ∃ t, execTransmit code widths rep s = .next t := by
  simp only [widthsOk, Bool.and_eq_true, decide_eq_true_eq, List.all_eq_true, decBelow_iff] at hwidths
  obtain ⟨hfew, hgood⟩ := hwidths
  obtain ⟨ws, hws⟩ := parseWidthList_of_good hgood
  obtain ⟨r, hr, hlt⟩ := (decBelow_iff _ _).1 hrep
  exact ⟨_, execTransmit_of_ok (parseCode_of_digits (List.all_eq_true.1 hcode))
    ((parseWidths_of_few hfew).trans hws) (parseDec_of_lt hr hlt)⟩

/-- A well-formed inbound operation completes, and its canonical frame fits the receive buffer (R72). -/
theorem wellFormed_frame {f : Frame} {s : State} (h : f.toInstr.wellFormed s.cfg = true) :
    (∃ t, exec f.toInstr s = .next t) ∧ (encode f.toInstr).length ≤ s.cfg.rxBufCap := by
  cases f with
  | tune text =>
    refine ⟨?_, (Laws.FrameFits.tune text rfl).2 _ h⟩
    simp only [Frame.toInstr, Instr.wellFormed, Bool.and_eq_true] at h
    exact execTune_of_textOk h.1
  | transmit code widths rep =>
    refine ⟨?_, (Laws.FrameFits.transmit code widths rep rfl).2 _ h⟩
    simp only [Frame.toInstr, Instr.wellFormed, Bool.and_eq_true] at h
    obtain ⟨⟨⟨hcode, hwidths⟩, hrep⟩, -⟩ := h
    exact execTransmit_of_operandsOk hcode hwidths hrep
  | ignored => exact ⟨⟨s, rfl⟩, (Laws.FrameFits.ignored rfl).2 _ h⟩

/-- The canonical frame of an inbound operation is a body that decodes to it, and the terminator. -/
theorem exists_body_of_wellFormed {p : Params} {i : Instr} (hi : i.format = .frmIn) (h : i.wellFormed p = true) :
    ∃ f body, f.toInstr = i ∧ encode i = body ++ [term] ∧ term ∉ body ∧ decodeFrame body = .ok f := by
  have hdecode := decodeInvertsEncode p i h
  rw [hi] at hdecode
  obtain ⟨f, hf, hfi⟩ := except_map_ok hdecode
  obtain ⟨body, hbytes, hterm, hbody⟩ := body_of_decodeInbound hf
  exact ⟨f, body, hfi, hbytes, hterm, hbody⟩

/-- Settles O21: the encoder's bytes decode to the operation, receiving them runs it as on the state before them, and
a well-formed operation completes there. -/
theorem wholeFrameRunsItsOperation : Obligations.WholeFrameRunsItsOperation := by
  intro i s hi hwf hidx
  obtain ⟨f, body, rfl, hbytes, hterm, hbody⟩ := exists_body_of_wellFormed hi hwf
  obtain ⟨⟨t, ht⟩, hfit⟩ := wellFormed_frame hwf
  rw [hbytes, List.length_append, List.length_singleton] at hfit
  obtain ⟨m, hm⟩ := execAll_body_term body hterm (s := s) (by omega)
  have hempty : Memory.slice s.rxBuf s.rxIdx = [] := by rw [hidx]; rfl
  rw [hempty, List.nil_append, executeFrame_of_ok hbody, ← exec_toInstr, ht] at hm
  exact ⟨t, m, ht, by rw [hbytes, hm]; rfl⟩

end Sys2Proof.Machine
end

section
/-! PROOFS. The waveform of TRANSMIT (44_transmit_sequencer.md R211 to R217): SYM, a walk of the code and the repeats of
a walk each play a list of durations, one toggle and one hold for each. -/

namespace Sys2Proof.Machine

open Sys2Proof.Config

/-! ### SYM -/

theorem symbol_of_no_mark {s : State} (h : s.cfg.txInsertMark = false) (d : Nat) : symbol d s = interval d s := by
  rw [symbol, h, if_neg Bool.false_ne_true]

theorem symbol_of_mark {s : State} (h : s.cfg.txInsertMark = true) (d : Nat) :
    symbol d s = interval d (interval 0 s) := by
  rw [symbol, if_pos h]

theorem exec_sym_of_le {d : BitVec 4} (h : d.toNat ≤ 9) (s : State) : exec (.sym d) s = .next (symbol d.toNat s) :=
  if_pos (Nat.lt_succ_of_le h)

/-- Settles O30: one interval, or the class-0 interval and then the digit's own, whose two toggles cancel. -/
theorem symTogglesAndHolds : Obligations.SymTogglesAndHolds := by
  intro d s hd
  rw [exec_sym_of_le hd]
  refine ⟨fun hmark => by rw [symbol_of_no_mark hmark]; rfl, fun hmark => ?_⟩
  rw [symbol_of_mark hmark]
  simp [interval, hold, toggle]

/-! ### Playing a list of durations -/

/-- One toggle and one hold for every duration, in order: what the sequencer does to the pin and the waveform. -/
def play (ds : List Nat) (s : State) : State := ds.foldl (fun t n => hold n (toggle t)) s

theorem play_append (ds es : List Nat) (s : State) : play (ds ++ es) s = play es (play ds s) := List.foldl_append

/-- The durations become segments that alternate from the level the pin does not have; nothing else changes but the
pin. -/
theorem play_eq (ds : List Nat) (s : State) :
    play ds s = { s with txPin := (play ds s).txPin, txTrace := s.txTrace ++ alternating (!s.txPin) ds } := by
  induction ds generalizing s with
  | nil => simp [play, alternating]
  | cons d ds ih =>
    have hplay : play (d :: ds) s = play ds (hold d (toggle s)) := rfl
    rw [hplay, ih]
    simp [alternating, hold, toggle]

theorem play_pct (ds : List Nat) (s : State) : (play ds s).pct = s.pct := by rw [play_eq]

theorem play_cfg (ds : List Nat) (s : State) : (play ds s).cfg = s.cfg := by rw [play_eq]

/-! ### The sequencer plays the code's durations -/

/-- The class table reads as a list of widths, 0 behind its end (R212's missing class). -/
def TableReads (ws : List Nat) (s : State) : Prop := ∀ k, Memory.read s.pct k = ws.getD k 0

theorem TableReads.after_play {ws : List Nat} {s : State} (h : TableReads ws s) (ds : List Nat) :
    TableReads ws (play ds s) := fun k => by rw [play_pct, h k]

/-- LOAD_TABLE into a clear table (43_protocol_codec.md R192). -/
theorem tableReads_loadTable {s : State} (h : ∀ k, Memory.read s.pct k = 0) (ws : List Nat) :
    TableReads ws (loadTable ws s) := by
  intro k
  rw [loadTable_pct, Memory.read_writeList]
  by_cases hk : k < ws.length
  · simp [hk]
  · simp [hk, h k]

theorem codeDurations_cons (mark : Bool) (ws : List Nat) (d : Nat) (ds : List Nat) :
    codeDurations mark ws (d :: ds) = codeDurations mark ws [d] ++ codeDurations mark ws ds := by
  simp [codeDurations]

theorem symbol_eq_play {ws : List Nat} {s : State} (h : TableReads ws s) (d : Nat) :
    symbol d s = play (codeDurations s.cfg.txInsertMark ws [d]) s := by
  cases hmark : s.cfg.txInsertMark with
  | false => rw [symbol_of_no_mark hmark, interval, h d]; rfl
  | true => rw [symbol_of_mark hmark, interval, interval_pct, h d, interval, h 0]; rfl

theorem replayOnce_eq_play {ws : List Nat} {s : State} (h : TableReads ws s) (code : List Nat) :
    replayOnce code s = play (codeDurations s.cfg.txInsertMark ws code) s := by
  induction code generalizing s with
  | nil => rfl
  | cons d ds ih =>
    calc replayOnce (d :: ds) s = replayOnce ds (symbol d s) := rfl
      _ = play (codeDurations s.cfg.txInsertMark ws (d :: ds)) s := by
        rw [symbol_eq_play h, ih (h.after_play _), play_cfg, ← play_append, ← codeDurations_cons]

theorem replayLoop_eq_play {ws : List Nat} {s : State} (h : TableReads ws s) (code : List Nat) (r : Nat) :
    replayLoop code r s = play (List.replicate r (codeDurations s.cfg.txInsertMark ws code)).flatten s := by
  induction r generalizing s with
  | zero => rfl
  | succ r ih =>
    rw [replayLoop, replayOnce_eq_play h, ih (h.after_play _), play_cfg, ← play_append, List.replicate_succ,
      List.flatten_cons]

/-- REPLAY of freshly loaded widths from a low pin and a clear table (R211, R216, R217). -/
theorem replay_loadTable {s : State} (hpin : s.txPin = false) (hclear : ∀ k, Memory.read s.pct k = 0)
    (ws code : List Nat) (r : Nat) :
    replay code r (loadTable ws s) = { s with
      txPin := false, pct := [], nCls := 0
      txTrace := s.txTrace ++ replayWaveform s.cfg.txInsertMark ws code r } := by
  rw [replay, replayLoop_eq_play (tableReads_loadTable hclear ws), play_eq, loadTable_txPin, hpin]
  rfl

/-! ### TRANSMIT -/

theorem parseWidthList_of_vals {w : Nat} {ts : List (List Byte)} {vs : List Nat}
    (h : ts.map decVal? = vs.map some) (hlt : ∀ v ∈ vs, v < 2 ^ w) : parseWidthList w ts = .ok vs := by
  induction ts generalizing vs with
  | nil =>
    obtain rfl : vs = [] := by simpa using h.symm
    rfl
  | cons t ts ih =>
    obtain ⟨v, vs, rfl, hv, hvs⟩ := List.map_eq_cons_iff.1 h.symm
    obtain ⟨hltv, hltvs⟩ := List.forall_mem_cons.1 hlt
    rw [parseWidthList, parseDec_of_lt hv.symm hltv, ih hvs.symm hltvs]
    rfl

theorem parseWidths_of_vals {p : Params} {widths : List Byte} {ws : List Nat}
    (h : (split lsep widths).map decVal? = ws.map some) (hfew : ws.length ≤ nClasses) (hlt : ∀ w ∈ ws, w < 2 ^ p.wPct) :
    parseWidths p widths = .ok ws := by
  have hlen : (split lsep widths).length = ws.length := by simpa using congrArg List.length h
  rw [parseWidths_of_few (hlen.trans_le hfew), parseWidthList_of_vals h hlt]

/-- Settles O28: the operands parse to the code, the widths and the repeat count, whose replay plays the waveform. -/
theorem transmitReplaysTheCode : Obligations.TransmitReplaysTheCode := by
  intro code widths rep ws r s hpin hclear hcode hwidths hfew hlt hrep hr
  have hparse := execTransmit_of_ok (parseCode_of_digits fun b hb => (isDigit_iff b).2 (hcode b hb))
    (parseWidths_of_vals hwidths hfew hlt) (parseDec_of_lt hrep hr)
  exact hparse.trans (congrArg Host.Outcome.next (replay_loadTable hpin hclear ws (code.map digitVal) r))

end Sys2Proof.Machine
end

section
/-! PROOFS. The replay in numbers (44_transmit_sequencer.md R214, R219), and the round trip of a captured train
(R218). -/

namespace Sys2Proof.Machine

open Sys2Proof.Config

/-! ### Alternating segments -/

theorem alternating_durations (l : Bool) (ds : List Nat) : (alternating l ds).map Segment.duration = ds := by
  induction ds generalizing l with
  | nil => rfl
  | cons d ds ih => rw [alternating, List.map_cons, ih]

theorem alternating_length (l : Bool) (ds : List Nat) : (alternating l ds).length = ds.length := by
  simpa using congrArg List.length (alternating_durations l ds)

theorem alternating_level (l : Bool) (ds : List Nat) (i : Nat) (h : i < (alternating l ds).length) :
    (alternating l ds)[i].level = (l == decide (i % 2 = 0)) := by
  induction ds generalizing l i with
  | nil => simp [alternating] at h
  | cons d ds ih =>
    cases i with
    | zero => cases l <;> rfl
    | succ i =>
      have hparity : decide ((i + 1) % 2 = 0) = !decide (i % 2 = 0) := by
        rw [← decide_not, decide_eq_decide]
        omega
      simp only [alternating, List.getElem_cons_succ, ih, hparity]
      cases l <;> cases decide (i % 2 = 0) <;> rfl

/-! ### The durations of a code -/

theorem codeDurations_length (mark : Bool) (ws code : List Nat) :
    (codeDurations mark ws code).length = if mark then 2 * code.length else code.length := by
  cases mark <;> simp [codeDurations, Nat.mul_comm]

theorem codeDurations_sum (mark : Bool) (ws code : List Nat) : (codeDurations mark ws code).sum =
    (code.map (fun d => ws.getD d 0)).sum + if mark then code.length * ws.getD 0 0 else 0 := by
  induction code with
  | nil => cases mark <;> simp [codeDurations]
  | cons d ds ih =>
    rw [codeDurations_cons, List.sum_append, ih]
    cases mark with
    | false => simp [codeDurations]
    | true => simp [codeDurations]; ring

/-- Settles O32: the segments of O28's waveform, counted and summed over the repeats. -/
theorem replayTogglesAndDuration : Obligations.ReplayTogglesAndDuration := by
  intro code widths rep ws r s hpin hclear hcode hwidths hfew hlt hrep hr
  refine ⟨_, replayWaveform s.cfg.txInsertMark ws (code.map digitVal) r,
    transmitReplaysTheCode code widths rep ws r s hpin hclear hcode hwidths hfew hlt hrep hr, rfl, rfl, ?_, ?_, ?_⟩
  · rw [replayWaveform, alternating_length, List.length_flatten, List.map_replicate, List.sum_replicate,
      codeDurations_length, List.length_map]
    split <;> simp [Nat.mul_left_comm]
  · rw [replayWaveform, alternating_durations, List.sum_flatten, List.map_replicate, List.sum_replicate,
      codeDurations_sum, List.map_map, List.length_map, smul_eq_mul, mul_add, mul_ite, mul_zero, mul_assoc]
    rfl
  · exact fun i h => (alternating_level true _ i h).trans (Bool.true_beq _)

/-! ### A captured train -/

theorem mem_of_mem_representatives {p : Params} {ws : List Nat} : ∀ c ∈ representatives p ws, c ∈ ws := by
  refine List.foldlRecOn (motive := fun reps => ∀ c ∈ reps, c ∈ ws) ws (addRep p) (by simp) fun reps ih w hw => ?_
  by_cases hfix : classFixed p reps w = true
  · rwa [addRep_of_fixed hfix]
  · rw [addRep_of_not_fixed hfix]
    exact List.forall_mem_append.2 ⟨ih, List.forall_mem_singleton.2 hw⟩

theorem representatives_ne_nil (p : Params) {ws : List Nat} (h : ws ≠ []) : representatives p ws ≠ [] := by
  obtain ⟨w, rest, rfl⟩ := List.exists_cons_of_ne_nil h
  exact (prefix_foldl_addRep p [w] rest).ne_nil (by simp)

/-- A class is a digit (R144): its index in a table of at most ten, or the overflow class. -/
theorem classIn_lt {p : Params} {reps : List Nat} (hreps : reps.length ≤ nClasses) (hover : p.overflowClass < nClasses)
    (w : Nat) : classIn p reps w < nClasses := by
  unfold classIn
  cases hfind : reps.findIdx? (fun c => matchWidth p c w) with
  | none => exact hover
  | some x => exact (List.findIdx?_eq_some_iff_findIdx_eq.1 hfind).1.trans_le hreps

theorem trainClass_lt {p : Params} (hover : p.overflowClass < nClasses) (ws : List Nat) (w : Nat) :
    classIn p (representatives p ws) w < nClasses := classIn_lt (representatives_apart p ws).1 hover w

theorem trainCode_digits {p : Params} (hover : p.overflowClass < nClasses) (ws : List Nat) :
    ∀ b ∈ trainCode p ws, isDigit b = true :=
  List.forall_mem_map.2 fun w _ => isDigit_digit (trainClass_lt hover ws w)

theorem trainCode_classes {p : Params} (hover : p.overflowClass < nClasses) (ws : List Nat) :
    (trainCode p ws).map digitVal = (oddPositions ws).map (classIn p (representatives p ws)) := by
  rw [trainCode, List.map_map]
  exact List.map_congr_left fun w _ => digitVal_digit (trainClass_lt hover ws w)

/-- Where every even position is class 0, the inserted class-0 intervals stand for the even positions, which the code
leaves out (R218). -/
theorem codeDurations_oddPositions {table ws : List Nat} {cls : Nat → Nat} (heven : ws.length % 2 = 0)
    (hzero : ∀ (i : Nat) (h : i < ws.length), i % 2 = 0 → cls ws[i] = 0) :
    codeDurations true table ((oddPositions ws).map cls) = ws.map (fun w => table.getD (cls w) 0) := by
  induction ws using oddPositions.induct with
  | case1 a b rest ih =>
    have ha : cls a = 0 := hzero 0 (by simp) rfl
    have hrest := ih (by simpa [Nat.add_assoc] using heven) fun i h hi => hzero (i + 2) (by simp; omega) (by omega)
    rw [oddPositions, List.map_cons, codeDurations_cons, hrest, List.map_cons, List.map_cons, ha]
    rfl
  | case2 ws hws =>
    match ws, hws with
    | [], _ => rfl
    | [a], _ => simp at heven
    | a :: b :: rest, hws => exact absurd rfl (hws a b rest)

/-- A printed list of numbers reads back as the numbers (30_encoding.md R77). -/
theorem decVal?_split_numbers {ns : List Nat} (h : ns ≠ []) :
    (split lsep (join lsep (ns.map dec))).map decVal? = ns.map some := by
  rw [split_numbers h, List.map_map]
  exact List.map_congr_left fun n _ => decVal?_dec n

/-- Settles O33: the captured code and width list are operands of TRANSMIT (O28), and the one walk of the code visits
every position of the train. -/
theorem capturedTrainRoundTrips : Obligations.CapturedTrainRoundTrips := by
  intro s ws hmark hpin hclear hpct hrep hover hne heven hlt hzero
  have hcode : ∀ b ∈ trainCode s.cfg ws, 0x30 ≤ b.toNat ∧ b.toNat ≤ 0x39 :=
    fun b hb => (isDigit_iff b).1 (trainCode_digits hover ws b hb)
  have hwidths : (split lsep (join lsep ((representatives s.cfg ws).map (fun c => dec (c * 10))))).map decVal? =
      ((representatives s.cfg ws).map (· * 10)).map some := by
    have hprinted := decVal?_split_numbers (mt List.map_eq_nil_iff.1 (representatives_ne_nil s.cfg hne) :
      (representatives s.cfg ws).map (· * 10) ≠ [])
    rwa [List.map_map] at hprinted
  have hfew : ((representatives s.cfg ws).map (· * 10)).length ≤ 10 :=
    (List.length_map _).trans_le (representatives_apart s.cfg ws).1
  have hfits : ∀ v ∈ (representatives s.cfg ws).map (· * 10), v < 2 ^ s.cfg.wPct := by
    refine List.forall_mem_map.2 fun c hc => ?_
    have hwide : 2 ^ 16 ≤ 2 ^ s.cfg.wPct := Nat.pow_le_pow_right (by decide) hpct
    have hc := hlt c (mem_of_mem_representatives c hc)
    omega
  have hwalk : codeDurations true ((representatives s.cfg ws).map (· * 10)) ((trainCode s.cfg ws).map digitVal) =
      ws.map (fun w => (representatives s.cfg ws).getD (classIn s.cfg (representatives s.cfg ws) w) 0 * 10) := by
    rw [trainCode_classes hover, codeDurations_oddPositions heven hzero]
    exact List.map_congr_left fun w _ => List.getD_map _ 0 (· * 10)
  rw [transmitReplaysTheCode _ _ [0x31] _ 1 s hpin hclear hcode hwidths hfew hfits rfl (Nat.one_lt_two_pow hrep.ne'),
    hmark, ← hwalk, replayWaveform, List.replicate_one, List.flatten_singleton]
  rfl

end Sys2Proof.Machine
end

section
/-! PROOFS. The events as exceptions (60_exceptions.md): simultaneous events (R236), the return from a handler (R239)
and the absence of faults (R230). -/

namespace Sys2Proof.Machine

open Sys2Proof.Config

/-! ### Simultaneous events -/

/-- Settles O40: `rst` is tested before the other bits, and the delivery is taken whole. -/
theorem resetOverridesSimultaneousEvents : Obligations.ResetOverridesSimultaneousEvents :=
  fun _ _ _ hin hr => step_of_takeEvent (takeEvent_of_rst hin hr)

/-- The requested events are the bits of the vector, `rst` aside (R71). -/
theorem mem_requested_iff {v h : EventVector} :
    h ∈ requested v ↔ (h = 1#4 ∨ h = 2#4 ∨ h = 4#4) ∧ v &&& h = h := by
  simp only [requested, List.mem_filter, List.mem_cons, List.not_mem_nil, or_false]
  refine and_congr_right ?_
  rintro (rfl | rfl | rfl) <;> revert v <;> decide

/-- A vector that stands for several events, `rst` not among them, requests more than one (R71). -/
theorem one_lt_length_requested {v : EventVector} {b : Byte} (hr : v.getLsbD 3 = false)
    (hd : decodeEvent v b = .error .severalEvents) : 1 < (requested v).length := by
  have hfew : ∀ u : EventVector, u.getLsbD 3 = false → (requested u).length ≤ 1 →
      u = 0#4 ∨ u = 1#4 ∨ u = 2#4 ∨ u = 4#4 := by decide
  by_contra hle
  rcases hfew v hr (Nat.le_of_not_lt hle) with rfl | rfl | rfl | rfl <;> cases hd

/-- Of several requested events one is taken, the others stay, and the counter of free choices advances (R236; log 7). -/
theorem takeEvent_of_requested_several {s : State} {r : Request} {rest : List Request} (h : s.input = r :: rest)
    (hr : r.vector.getLsbD 3 = false) (hq : 1 < (requested r.vector).length) :
    ∃ v ∈ requested r.vector, takeEvent s = ((decodeEvent v r.data).toOption,
      { s with input := ⟨r.vector ^^^ v, r.data⟩ :: rest, choice := s.choice + 1 }) := by
  have hlt := Nat.mod_lt (serialOrder s.choice) (Nat.zero_lt_of_lt hq)
  refine ⟨_, List.getElem_mem hlt, ?_⟩
  rw [← List.getD_eq_getElem _ 0b0001#4 hlt]
  simp only [takeEvent, h, hr]
  generalize requested r.vector = vs at hq
  match vs, hq with
  | _ :: _ :: _, _ => rfl

/-- Settles O41: the event taken is one of the requested bits, and a single bit decodes. -/
theorem simultaneousEventsAreSerialised : Obligations.SimultaneousEventsAreSerialised := by
  intro s r rest hin hr hd
  obtain ⟨v, hv, htake⟩ := takeEvent_of_requested_several hin hr (one_lt_length_requested hr hd)
  obtain ⟨hbit, hand⟩ := mem_requested_iff.1 hv
  have hdec : ∃ i, decodeEvent v r.data = .ok i := by
    rcases hbit with rfl | rfl | rfl <;> exact ⟨_, rfl⟩
  obtain ⟨i, hi⟩ := hdec
  refine ⟨v, i, hbit, hand, hi, step_of_takeEvent ?_⟩
  rw [htake, hi]
  rfl

/-! ### The return from a handler -/

/-- The handler of an event ends in RESET's own `IE <- 1` or in `leaveHandler` (R239). -/
theorem ie_of_exec_event {i : Instr} {s t : State} (hi : i.format = .evt) (h : exec i s = .next t) : t.ie = true := by
  cases i with
  | reset =>
    cases h
    rfl
  | tick =>
    cases h
    rfl
  | edge =>
    cases h
    rfl
  | rxbyte b =>
    rcases execRxbyte_next_cases h with ⟨-, -, rfl⟩ | ⟨-, f, u, -, -, rfl⟩
    · rfl
    · rfl
  | _ => cases hi

/-- The handler of an event writes `IE` before anything could read it (R35, R238). -/
theorem exec_event_ignores_ie {i : Instr} (hi : i.format = .evt) (s : State) (b : Bool) :
    exec i { s with ie := b } = exec i s := by
  have henter : enterHandler { s with ie := b } = enterHandler s := rfl
  cases i with
  | reset => rfl
  | tick => simp only [exec, execTick, henter]
  | edge => simp only [exec, execEdge, henter]
  | rxbyte c => simp only [exec, execRxbyte, henter]
  | _ => cases hi

/-- Settles O42: every handler writes `IE` on its way in and on its way out. -/
theorem handlersRestoreInterrupts : Obligations.HandlersRestoreInterrupts :=
  fun _ s hi => ⟨fun _ h => ie_of_exec_event hi h, exec_event_ignores_ie hi s⟩

/-! ### No fault -/

theorem executeFrame_noFault (body : List Byte) (s : State) (e : Fault) : executeFrame body s ≠ .fault e := by
  cases hd : decodeFrame body with
  | ok f =>
    rw [executeFrame_of_ok hd]
    exact runFrame_noFault f s e
  | error err =>
    rw [executeFrame_of_error hd]
    exact nofun

theorem onNext_fault {o : Outcome} {f : State → State} {e : Fault} (h : onNext o f = .fault e) : o = .fault e := by
  cases o with
  | next u => cases h
  | fault e' => exact h
  | refused r => cases h

/-- RXBYTE faults only on an index out of range (R10; log 9). -/
theorem le_rxIdx_of_execRxbyte_fault {b : Byte} {s : State} {e : Fault} (h : execRxbyte b s = .fault e) :
    s.cfg.rxBufCap ≤ s.rxIdx := by
  rcases execRxbyte_cases b s with ⟨hle, -⟩ | ⟨-, -, he⟩ | ⟨-, -, he⟩
  · exact hle
  · cases he.symm.trans h
  · exact absurd (onNext_fault (he.symm.trans h)) (executeFrame_noFault _ _ _)

/-- Taking an event touches nothing the invariant speaks of (R71). -/
theorem takeEvent_inv {s : State} (hs : s.Inv) : (takeEvent s).2.Inv := by
  rw [takeEvent_frame]
  exact { hs with }

/-- Settles O45: RESET, TICK and EDGE always complete, and the invariant keeps RXBYTE's index in range. -/
theorem noFaultFromAStepBoundary : Obligations.NoFaultFromAStepBoundary := by
  intro s hs f h
  rcases takeEvent_cases s with he | he | he | he | ⟨b, he⟩
  · cases (step_of_noEvent (Prod.ext he rfl)).symm.trans h
  · cases (step_of_event he).symm.trans h
  · cases (step_of_event he).symm.trans h
  · cases (step_of_event he).symm.trans h
  · have hle := le_rxIdx_of_execRxbyte_fault ((step_of_event he).symm.trans h)
    exact absurd (takeEvent_inv hs).rxIdxBound (Nat.not_lt.2 hle)

end Sys2Proof.Machine
end

section
/-! PROOFS. What RESET leaves in each register (70_reset_and_hazards.md R260; 10_state.md R41). -/

namespace Sys2Proof.Machine

/-- Settles O1: the record RESET writes holds each value itself, and its class table `PCT` is the empty array, every
entry of which reads 0. -/
theorem resetSetsEveryRegister : Obligations.ResetSetsEveryRegister := by
  intro s
  have hpct : ∀ k, Memory.read ([] : Memory Nat) k = 0 := Memory.read_nil
  exact ⟨_, rfl, rfl, rfl, rfl, rfl, hpct, rfl, rfl, rfl, rfl, rfl, rfl, rfl, rfl, rfl, rfl, rfl⟩

end Sys2Proof.Machine
end
